-- ==== Sys2Proof/Word.lean ====
section
/-! DEFINITION. The words of the six parts (spec/00_scope.md R9, R13) and a register file indexed by a
register field. Nothing here but the types: arithmetic is that of BitVec, modulo 2^width (R9). -/

namespace Sys2Proof

/-- The smallest addressable unit of every part's memory (spec/20_memory.md R100). -/
abbrev Byte := BitVec 8

/-- 16 bits: P1 "word", P2 to P6 "halfword" (spec/00_scope.md R13). -/
abbrev Half := BitVec 16

/-- 32 bits: P1 "doubleword", P2 to P6 "word" (spec/00_scope.md R13). -/
abbrev Word := BitVec 32

/-- 64 bits: P6 "doubleword" (spec/00_scope.md R13). -/
abbrev DWord := BitVec 64

/-- A register file with one `w`-bit register for each value of a `k`-bit register field. -/
abbrev RegFile (k w : Nat) := Vector (BitVec w) (2 ^ k)

end Sys2Proof
end

