-- ==== Sys2Proof/Config.lean ====
section
/-! DEFINITION. What the spec leaves to an implementation (spec/00_scope.md R7): the named parameters of each
part as plain data (the State carries one record a part, which no step changes), and the free values, opaque
constants that no proof can evaluate (spec/00_scope.md R12, R10 `UNDEFINED_VALUE`). -/

namespace Sys2Proof

/-- The six independent machines of the compendium (spec/00_scope.md R1, R2). -/
inductive Part
  /-- IA-32. -/
  | p1
  /-- ARM version 4/4T. -/
  | p2
  /-- 32-bit PowerPC. -/
  | p3
  /-- SPARC version 8. -/
  | p4
  /-- MIPS32 up to Release 6. -/
  | p5
  /-- RISC-V RV32/RV64. -/
  | p6
  deriving DecidableEq, Repr

/-- Byte order of a part's memory (spec/20_memory.md R101, R102). -/
inductive ByteOrder
  | little
  | big
  deriving DecidableEq, Repr

/-- A range of byte addresses: how the address predicates of spec/00_scope.md R7 are held as plain data.
A predicate on a finite address space is a finite list of these (notes/assumptions/3.md). -/
structure Region where
  base : Nat
  size : Nat
  deriving DecidableEq, Repr

/-- The six segment registers of P1 (spec/10_state.md R23). -/
inductive X86Sreg
  | es
  | cs
  | ss
  | ds
  | fs
  | gs
  deriving DecidableEq, Repr, Inhabited

/-- The descriptor facts of a segment register's hidden part (spec/10_state.md R23): limit, writable attribute,
the B flag (of SS) or D flag (of CS). `base` is where X86_SEG puts offset 0 (spec/20_memory.md R104). That base and
limit have 32 bits is the model's choice (notes/assumptions/49.md). -/
structure X86Descriptor where
  base : Word
  limit : Word
  writable : Bool
  big : Bool
  deriving DecidableEq, Repr, Inhabited

/-- The exceptions of P1 with the error code the page names (spec/60_exceptions.md R683). That a code is a 32-bit word is
the model's choice (notes/assumptions/49.md). -/
inductive X86Exc
  /-- `#UD`: MOV to CS, or a segment register number 6 or 7 (spec/40_ia32.md R268). -/
  | ud
  /-- `#GP(code)`: spec/20_memory.md R106 rows 1 to 3, a null SS (spec/40_ia32.md R287, R288), RET (R296). -/
  | gp (code : Word)
  /-- `#SS(code)`: an access outside the SS limit (spec/20_memory.md R106). -/
  | ss (code : Word)
  /-- `#NP(code)`: raised only by X86_LOADSEG (spec/60_exceptions.md R683). -/
  | np (code : Word)
  /-- `#PF(fault-code)`: a page fault (spec/20_memory.md R106). -/
  | pf (code : Word)
  /-- `#AC(0)`: an unaligned reference with AlignCheck at CPL 3 (spec/20_memory.md R107). -/
  | ac (code : Word)
  deriving DecidableEq, Repr, Inhabited

/-- What the parameter X86_LOADSEG answers (spec/40_ia32.md R287): a new hidden part, or an exception. -/
inductive X86SegLoad
  | loaded (d : X86Descriptor)
  | raises (e : X86Exc)
  deriving DecidableEq, Repr, Inhabited

/-- The kinds of a P1 access (spec/20_memory.md R104). `fetch` is the model's own: R104 has no kind for the bytes of an
instruction (notes/assumptions/14.md). -/
inductive X86Access
  | read
  | write
  | stackRead
  | stackWrite
  | fetch
  deriving DecidableEq, Repr

/-- What paging answers for a linear address: where in memory it lies, or a page fault with its code (spec/20_memory.md
R104, R106). -/
inductive X86PageAnswer
  | lies (a : Word)
  | fault (code : Word)
  deriving DecidableEq, Repr, Inhabited

/-- One rule of a listed paging: accesses of the kinds to a byte of the region lie from `lies` up, or fault. -/
structure X86PageRule where
  region : Region
  kinds : List X86Access
  answer : X86PageAnswer
  deriving DecidableEq, Repr

/-- The parameter X86_SEG (spec/20_memory.md R104): `based` is base plus offset with the listed paging, and with no rule
and the descriptors of the reset state it is the spec's flat default; `other k` is any function whatever, an unknown one
(`Config.x86Linear`, `Config.x86Page`, `Config.x86Unlisted`). -/
inductive X86SegInstance
  | based (pages : List X86PageRule)
  | other (k : Nat)
  deriving DecidableEq, Repr

/-- The parameter X86_POP_WRAP_LOC (spec/40_ia32.md R289): where a POP writes whose 16-bit stack pointer wraps. `computed`
is the operand's own segment and offset, `lies` one location, and `anywhere` an unknown one at each POP (`Config.x86PopWrap`). -/
inductive X86PopWrap
  | computed
  | lies (g : X86Sreg) (off : Word)
  | anywhere
  deriving DecidableEq, Repr

/-- One entry of the parameter X86_LOADSEG (spec/40_ia32.md R287): what loading a selector into a segment register
answers. -/
structure X86LoadRule where
  sreg : X86Sreg
  sel : Half
  result : X86SegLoad
  deriving DecidableEq, Repr

/-- Parameters of P1 (spec/00_scope.md R7): X86_SEG, X86_LOADSEG entry by entry, X86_POP_WRAP_LOC. -/
structure X86Params where
  seg : X86SegInstance
  loadSegs : List X86LoadRule
  popWrap : X86PopWrap
  deriving DecidableEq, Repr

/-- Parameters of P2 (spec/00_scope.md R7): `v4T` is ARM_ARCH = v4T, `alignCheck` ARM_ALIGN_CHECK, `order`
BYTE_ORDER_P2, `aborts` the addresses where ARM_ABORTS holds. -/
structure ArmParams where
  v4T : Bool
  alignCheck : Bool
  order : ByteOrder
  aborts : List Region
  deriving DecidableEq, Repr

/-- The three outcomes of mtspr with another SPR number in user mode (spec/42_powerpc.md R395). -/
inductive PpcMtsprOther
  | illegalInstruction
  | supervisorInstruction
  | boundedlyUndefined
  deriving DecidableEq, Repr

/-- Parameters of P3 (spec/00_scope.md R7): `user` is PPC_USER, `mtsprAt` with `mtsprElse` is PPC_MTSPR_OTHER
("may depend on n", spec/42_powerpc.md R395), `dsi` the addresses where PPC_DSI holds. -/
structure PpcParams where
  user : Bool
  mtsprAt : List (BitVec 10 × PpcMtsprOther)
  mtsprElse : PpcMtsprOther
  dsi : List Region
  deriving DecidableEq, Repr

/-- Parameters of P4 (spec/00_scope.md R7): `cpPresent` is SPARC_CP_PRESENT, `dae` the addresses where SPARC_DAE
holds. -/
structure SparcParams where
  cpPresent : Bool
  dae : List Region
  deriving DecidableEq, Repr

/-- MIPS_RELEASE (spec/00_scope.md R7). -/
inductive MipsRelease
  | r1
  | r2
  | r3
  | r5
  | r6
  deriving DecidableEq, Repr

/-- MIPS_R6_MISALIGN (spec/20_memory.md R118). -/
inductive MipsMisalign
  | addressError
  | supported
  deriving DecidableEq, Repr

/-- The faults AddressTranslation can raise (spec/20_memory.md R117). -/
inductive MipsXlateFault
  | tlbRefill
  | tlbInvalid
  | busError
  | addressError
  | watch
  deriving DecidableEq, Repr

/-- What MIPS_XLATE answers on a range: a physical range, or a fault (spec/20_memory.md R117). -/
inductive MipsXlateResult
  | mapsTo (pbase : Word)
  | faults (e : MipsXlateFault)
  deriving DecidableEq, Repr

/-- One range of MIPS_XLATE; an address in no range is translated by the identity (spec/20_memory.md R117). R117
gives MIPS_XLATE a kind and lists none: that it is asked for LW's data only, so that it needs no kind, is the model's
DESIGN CHOICE (notes/assumptions/52.md). -/
structure MipsXlate where
  region : Region
  result : MipsXlateResult
  deriving DecidableEq, Repr

/-- Parameters of P5 (spec/00_scope.md R7): the two Config fields of JR, MIPS_RELEASE, MIPS_R6_MISALIGN,
BYTE_ORDER_P5 and MIPS_XLATE. That Config3ISA has two bits and Config1CA one is the model's choice, since the spec asks
only whether they are 0 (notes/assumptions/45.md). -/
structure MipsParams where
  release : MipsRelease
  config3ISA : BitVec 2
  config1CA : BitVec 1
  misalign : MipsMisalign
  order : ByteOrder
  xlate : List MipsXlate
  deriving DecidableEq, Repr

/-- The kinds of access of RV_ACCESS_FAULT (spec/20_memory.md R120), which the spec does not list. That they are the two
data accesses, so that an instruction fetch takes no access fault, is the model's choice (notes/assumptions/50.md). -/
inductive RvAccess
  | load
  | store
  deriving DecidableEq, Repr

/-- One rule of RV_ACCESS_FAULT(addr, n, kind) (spec/20_memory.md R120): accesses of one kind; of `size` bytes that start
in the region, or, with no size, of any size with a byte in it. -/
structure RvFaultRegion where
  region : Region
  size : Option Nat
  kind : RvAccess
  deriving DecidableEq, Repr

/-- What P6 does in the cases that the pages leave unsettled and the spec decides (spec/92_eei_decisions.md D22, D28): a
store that overlaps the reservation, an sc.d with a word reservation inside its doubleword, a remainder by zero. `refuse`
is the spec's decision; with `complete` the instruction runs and what the pages do not say is a free value
(notes/assumptions/44.md). -/
inductive RvUnsettled
  | refuse
  | complete
  deriving DecidableEq, Repr

/-- Parameters of P6 (spec/00_scope.md R7): `rv64` is XLEN = 64 (else 32), the five groups of RV_EXT, RV_USER,
RV_SC_MAY_FAIL and RV_ACCESS_FAULT; `unsettled` is the model's own. -/
structure RvParams where
  rv64 : Bool
  extA : Bool
  extM : Bool
  extC : Bool
  privM : Bool
  privS : Bool
  userMode : Bool
  scMayFail : Bool
  accessFaults : List RvFaultRegion
  unsettled : RvUnsettled
  deriving DecidableEq, Repr

namespace Config

/-- `UNDEFINED_VALUE(w)` of P1 (spec/00_scope.md R10): the draw numbered `n` by `X86State.draws`. -/
opaque x86Free (w n : Nat) : BitVec w

/-- `UNDEFINED_VALUE(w)` of P2: the draw numbered `n` by `ArmState.draws`. -/
opaque armFree (w n : Nat) : BitVec w

/-- `UNDEFINED_VALUE(w)` of P6: the draw numbered `n` by `RvState.draws`. -/
opaque rvFree (w n : Nat) : BitVec w

/-- X86_LOADSEG (spec/40_ia32.md R287) for a selector that the parameter does not list: an unknown function of the draw
number, the segment register and the selector (spec/92_eei_decisions.md D18; notes/assumptions/12.md). -/
opaque x86LoadSeg (n : Nat) (s : X86Sreg) (sel : Half) : X86SegLoad

/-- X86_POP_WRAP_LOC where the parameter leaves it open (spec/40_ia32.md R289): the location, a function of the draw
number and of the operand's segment and offset (notes/assumptions/13.md). -/
opaque x86PopWrap (n : Nat) (g : X86Sreg) (off : Word) : X86Sreg × Word

/-- The 32-bit remainder of `remw` by a zero divisor, a function of the dividend (spec/45_riscv.md R624: "neither
entry says what happens"; notes/assumptions/30.md). -/
opaque remwByZero (dividend : Word) : Word

/-- The 32-bit remainder of `remuw` by a zero divisor (spec/45_riscv.md R624; notes/assumptions/30.md). -/
opaque remuwByZero (dividend : Word) : Word

end Config

end Sys2Proof
end

