-- ==== Sys2Proof/Syntax.lean ====
section
/-! DEFINITION. The instructions of the six parts: one constructor of `Instr` per row of spec/opcode_table.json, in
the table's order, with the operand fields of spec/30_encoding.md; and the reasons a decoder refuses bits. -/

namespace Sys2Proof

/-! ### Operands of P1 -/

/-- The displacement of a 32-bit ModR/M memory operand (spec/30_encoding.md R154: mod 00, 01, 10). -/
inductive X86Disp32
  | none
  | d8 (v : BitVec 8)
  | d32 (v : BitVec 32)
  deriving DecidableEq, Repr

/-- The displacement of a 16-bit ModR/M memory operand (spec/30_encoding.md R156: mod 00, 01, 10). -/
inductive X86Disp16
  | none
  | d8 (v : BitVec 8)
  | d16 (v : BitVec 16)
  deriving DecidableEq, Repr

/-- A memory operand as its ModR/M, SIB and displacement bytes name it (spec/30_encoding.md R154, R155, R156). -/
inductive X86Mem
  /-- `AddressSize` 32, mod 00, r/m 5: memory at disp32. -/
  | disp32 (v : BitVec 32)
  /-- `AddressSize` 32, r/m other than 4: `reg32[r]` plus a displacement. -/
  | base32 (r : BitVec 3) (d : X86Disp32)
  /-- `AddressSize` 32, r/m 4: base plus scaled index plus a displacement. -/
  | sib (scale : BitVec 2) (index base : BitVec 3) (d : X86Disp32)
  /-- `AddressSize` 32, r/m 4 with mod 00 and SIB base 5: scaled index plus disp32. -/
  | sibNoBase (scale : BitVec 2) (index : BitVec 3) (v : BitVec 32)
  /-- `AddressSize` 16, mod 00, r/m 6: memory at disp16. -/
  | disp16 (v : BitVec 16)
  /-- `AddressSize` 16: the register sum that `rm` names, plus a displacement. -/
  | base16 (rm : BitVec 3) (d : X86Disp16)
  deriving DecidableEq, Repr

/-- An `r/m` operand (spec/30_encoding.md R151, R152): a register of the operand's width, or memory. -/
inductive X86RM
  | reg (n : BitVec 3)
  | mem (m : X86Mem)
  deriving DecidableEq, Repr

/-- The prefix bytes in force on the instruction in hand (spec/30_encoding.md R158): operand-size, address-size, and
the segment override. -/
structure X86Pfx where
  op : Bool
  addr : Bool
  seg : Option X86Sreg
  deriving DecidableEq, Repr, Inhabited

/-- No prefix byte. -/
def X86Pfx.none : X86Pfx := ⟨false, false, Option.none⟩

/-- How many prefix bytes. -/
def X86Pfx.count (p : X86Pfx) : Nat := p.op.toNat + p.addr.toNat + p.seg.isSome.toNat

/-! ### Operands of P2 and P4 -/

/-- The conditions of P2 (spec/41_arm.md R331); `NV` (1111) is refused before it becomes an instruction. -/
inductive ArmCond
  | eq | ne | cs | cc | mi | pl | vs | vc | hi | ls | ge | lt | gt | le | al
  deriving DecidableEq, Repr

/-- How an LDR uses its base (spec/30_encoding.md R168, bits P and W). -/
inductive ArmIndex
  /-- P = 1, W = 0. -/
  | offset
  /-- P = 1, W = 1. -/
  | pre
  /-- P = 0, W = 0. -/
  | post
  deriving DecidableEq, Repr

/-- The conditions of Bicc, in the order of their codes 0000 to 1111 (spec/43_sparc.md R462). -/
inductive SparcCond
  | n | e | le | l | leu | cs | neg | vs | a | ne | g | ge | gu | cc | pos | vc
  deriving DecidableEq, Repr

/-- `reg_or_imm` (spec/43_sparc.md R451): i = 0 names `r[rs2]`, i = 1 carries simm13. -/
inductive SparcOp2
  | reg (rs2 : BitVec 5)
  | imm (simm : BitVec 13)
  deriving DecidableEq, Repr

/-! ### Refusals of the decoder -/

/-- Why bits are no instruction of the model (spec/30_encoding.md R240: refused, never an illegal instruction). -/
inductive DecodeErr
  /-- The bytes end before the instruction does. -/
  | short
  /-- The bits match no row of spec/opcode_table.json for the part (R240). -/
  | notListed
  /-- The same P1 size prefix twice (R158). -/
  | repeatedPrefix
  /-- More than one P1 segment override (R158). -/
  | secondOverride
  /-- P1 `8F /0` with mod = 11: POP lists memory only (R161). -/
  | popRegisterForm
  /-- P2 condition 1111 (R171). -/
  | armNever
  /-- P2 MOV with a nonzero Rn field (R166). -/
  | armMovRn
  /-- P2 LDR with P = 0 and W = 1, which is LDRT (R168). -/
  | armLdrUserMode
  /-- P2 LDR with R15 as its offset register (R168). -/
  | armLdrRmPc
  /-- P3 nonzero reserved field: addze {16-20}, mtspr {31}, bclr {16-20} (R182). -/
  | ppcReservedField
  /-- P4 LD with i = 0 and bits 12:5 not zero (R189). -/
  | sparcLdAsi
  /-- P5 ADDU, SLTU bits 10:6 or JR bits 20:11 not zero (R198). -/
  | mipsReservedField
  /-- P5 JR with a nonzero hint (R197). -/
  | mipsJrHint
  /-- P6 "Invalid when" of a compressed format (R227). -/
  | rvInvalidCompressed
  deriving DecidableEq, Repr

/-! ### Instructions -/

/-- One constructor per row of spec/opcode_table.json. Fields are the row's operand fields, by the names the pages
use. An immediate or moffs offset of 16 or 32 bits is held as 32 bits (the size comes from the attributes,
spec/10_state.md R28); a prefix byte holds the instruction it precedes (notes/assumptions/19.md). -/
inductive Instr
  /-- P1 `PUSH r/m16 | r/m32` (spec/40_ia32.md R260). -/
  | x86PushRm (rm : X86RM)
  /-- P1 `PUSH r16 | r32` (spec/40_ia32.md R260). -/
  | x86PushReg (r : BitVec 3)
  /-- P1 `PUSH imm8` (spec/40_ia32.md R260). -/
  | x86PushImm8 (imm : BitVec 8)
  /-- P1 `PUSH imm16 | imm32` (spec/40_ia32.md R260). -/
  | x86PushImm (imm : BitVec 32)
  /-- P1 `PUSH CS` (spec/40_ia32.md R261). -/
  | x86PushCs
  /-- P1 `PUSH SS` (spec/40_ia32.md R261). -/
  | x86PushSs
  /-- P1 `PUSH DS` (spec/40_ia32.md R261). -/
  | x86PushDs
  /-- P1 `PUSH ES` (spec/40_ia32.md R261). -/
  | x86PushEs
  /-- P1 `PUSH FS` (spec/40_ia32.md R261). -/
  | x86PushFs
  /-- P1 `PUSH GS` (spec/40_ia32.md R261). -/
  | x86PushGs
  /-- P1 `XOR AL, imm8` (spec/40_ia32.md R265). -/
  | x86XorAlImm8 (imm : BitVec 8)
  /-- P1 `XOR AX | EAX, imm16 | imm32` (spec/40_ia32.md R265). -/
  | x86XorAxImm (imm : BitVec 32)
  /-- P1 `XOR r/m8, imm8` (spec/40_ia32.md R265). -/
  | x86XorRm8Imm8 (rm : X86RM) (imm : BitVec 8)
  /-- P1 `XOR r/m16 | r/m32, imm16 | imm32` (spec/40_ia32.md R265). -/
  | x86XorRmImm (rm : X86RM) (imm : BitVec 32)
  /-- P1 `XOR r/m16 | r/m32, imm8` (spec/40_ia32.md R265). -/
  | x86XorRmImm8 (rm : X86RM) (imm : BitVec 8)
  /-- P1 `XOR r/m8, r8` (spec/40_ia32.md R265). -/
  | x86XorRm8R8 (rm : X86RM) (r : BitVec 3)
  /-- P1 `XOR r/m16 | r/m32, r16 | r32` (spec/40_ia32.md R265). -/
  | x86XorRmR (rm : X86RM) (r : BitVec 3)
  /-- P1 `XOR r8, r/m8` (spec/40_ia32.md R265). -/
  | x86XorR8Rm8 (r : BitVec 3) (rm : X86RM)
  /-- P1 `XOR r16 | r32, r/m16 | r/m32` (spec/40_ia32.md R265). -/
  | x86XorRRm (r : BitVec 3) (rm : X86RM)
  /-- P1 `MOV r/m8, r8` (spec/40_ia32.md R266). -/
  | x86MovRm8R8 (rm : X86RM) (r : BitVec 3)
  /-- P1 `MOV r/m16 | r/m32, r16 | r32` (spec/40_ia32.md R266). -/
  | x86MovRmR (rm : X86RM) (r : BitVec 3)
  /-- P1 `MOV r8, r/m8` (spec/40_ia32.md R266). -/
  | x86MovR8Rm8 (r : BitVec 3) (rm : X86RM)
  /-- P1 `MOV r16 | r32, r/m16 | r/m32` (spec/40_ia32.md R266). -/
  | x86MovRRm (r : BitVec 3) (rm : X86RM)
  /-- P1 `MOV r/m16, Sreg` (spec/40_ia32.md R268). -/
  | x86MovRmSreg (rm : X86RM) (sr : BitVec 3)
  /-- P1 `MOV Sreg, r/m16` (spec/40_ia32.md R268). -/
  | x86MovSregRm (sr : BitVec 3) (rm : X86RM)
  /-- P1 `MOV AL, moffs8` (spec/40_ia32.md R267). -/
  | x86MovAlMoffs (off : BitVec 32)
  /-- P1 `MOV AX | EAX, moffs16 | moffs32` (spec/40_ia32.md R267). -/
  | x86MovAxMoffs (off : BitVec 32)
  /-- P1 `MOV moffs8, AL` (spec/40_ia32.md R267). -/
  | x86MovMoffsAl (off : BitVec 32)
  /-- P1 `MOV moffs16 | moffs32, AX | EAX` (spec/40_ia32.md R267). -/
  | x86MovMoffsAx (off : BitVec 32)
  /-- P1 `MOV r8, imm8` (spec/40_ia32.md R266). -/
  | x86MovR8Imm8 (r : BitVec 3) (imm : BitVec 8)
  /-- P1 `MOV r16 | r32, imm16 | imm32` (spec/40_ia32.md R266). -/
  | x86MovRImm (r : BitVec 3) (imm : BitVec 32)
  /-- P1 `MOV r/m8, imm8` (spec/40_ia32.md R266). -/
  | x86MovRm8Imm8 (rm : X86RM) (imm : BitVec 8)
  /-- P1 `MOV r/m16 | r/m32, imm16 | imm32` (spec/40_ia32.md R266). -/
  | x86MovRmImm (rm : X86RM) (imm : BitVec 32)
  /-- P1 `ADD AL, imm8` (spec/40_ia32.md R270). -/
  | x86AddAlImm8 (imm : BitVec 8)
  /-- P1 `ADD AX | EAX, imm16 | imm32` (spec/40_ia32.md R270). -/
  | x86AddAxImm (imm : BitVec 32)
  /-- P1 `ADD r/m8, imm8` (spec/40_ia32.md R270). -/
  | x86AddRm8Imm8 (rm : X86RM) (imm : BitVec 8)
  /-- P1 `ADD r/m16 | r/m32, imm16 | imm32` (spec/40_ia32.md R270). -/
  | x86AddRmImm (rm : X86RM) (imm : BitVec 32)
  /-- P1 `ADD r/m16 | r/m32, imm8` (spec/40_ia32.md R270). -/
  | x86AddRmImm8 (rm : X86RM) (imm : BitVec 8)
  /-- P1 `ADD r/m8, r8` (spec/40_ia32.md R270). -/
  | x86AddRm8R8 (rm : X86RM) (r : BitVec 3)
  /-- P1 `ADD r/m16 | r/m32, r16 | r32` (spec/40_ia32.md R270). -/
  | x86AddRmR (rm : X86RM) (r : BitVec 3)
  /-- P1 `ADD r8, r/m8` (spec/40_ia32.md R270). -/
  | x86AddR8Rm8 (r : BitVec 3) (rm : X86RM)
  /-- P1 `ADD r16 | r32, r/m16 | r/m32` (spec/40_ia32.md R270). -/
  | x86AddRRm (r : BitVec 3) (rm : X86RM)
  /-- P1 `ADC AL, imm8` (spec/40_ia32.md R272). -/
  | x86AdcAlImm8 (imm : BitVec 8)
  /-- P1 `ADC AX | EAX, imm16 | imm32` (spec/40_ia32.md R272). -/
  | x86AdcAxImm (imm : BitVec 32)
  /-- P1 `ADC r/m8, imm8` (spec/40_ia32.md R272). -/
  | x86AdcRm8Imm8 (rm : X86RM) (imm : BitVec 8)
  /-- P1 `ADC r/m16 | r/m32, imm16 | imm32` (spec/40_ia32.md R272). -/
  | x86AdcRmImm (rm : X86RM) (imm : BitVec 32)
  /-- P1 `ADC r/m16 | r/m32, imm8` (spec/40_ia32.md R272). -/
  | x86AdcRmImm8 (rm : X86RM) (imm : BitVec 8)
  /-- P1 `ADC r/m8, r8` (spec/40_ia32.md R272). -/
  | x86AdcRm8R8 (rm : X86RM) (r : BitVec 3)
  /-- P1 `ADC r/m16 | r/m32, r16 | r32` (spec/40_ia32.md R272). -/
  | x86AdcRmR (rm : X86RM) (r : BitVec 3)
  /-- P1 `ADC r8, r/m8` (spec/40_ia32.md R272). -/
  | x86AdcR8Rm8 (r : BitVec 3) (rm : X86RM)
  /-- P1 `ADC r16 | r32, r/m16 | r/m32` (spec/40_ia32.md R272). -/
  | x86AdcRRm (r : BitVec 3) (rm : X86RM)
  /-- P1 `LOOP rel8` (spec/40_ia32.md R274). -/
  | x86Loop (rel : BitVec 8)
  /-- P1 `LOOPE | LOOPZ rel8` (spec/40_ia32.md R275). -/
  | x86Loope (rel : BitVec 8)
  /-- P1 `LOOPNE | LOOPNZ rel8` (spec/40_ia32.md R276). -/
  | x86Loopne (rel : BitVec 8)
  /-- P1 `SHRD r/m16 | r/m32, r16 | r32, imm8` (spec/40_ia32.md R278). -/
  | x86ShrdImm (rm : X86RM) (r : BitVec 3) (imm : BitVec 8)
  /-- P1 `SHRD r/m16 | r/m32, r16 | r32, CL` (spec/40_ia32.md R278). -/
  | x86ShrdCl (rm : X86RM) (r : BitVec 3)
  /-- P1 `XCHG AX | EAX, r16 | r32 (either operand order)` (spec/40_ia32.md R282). -/
  | x86XchgAxR (r : BitVec 3)
  /-- P1 `XCHG r/m8, r8 (either operand order)` (spec/40_ia32.md R282). -/
  | x86XchgRm8R8 (rm : X86RM) (r : BitVec 3)
  /-- P1 `XCHG r/m16 | r/m32, r16 | r32 (either operand order)` (spec/40_ia32.md R282). -/
  | x86XchgRmR (rm : X86RM) (r : BitVec 3)
  /-- P1 `POP m16 | m32` (spec/40_ia32.md R286). -/
  | x86PopMem (m : X86Mem)
  /-- P1 `POP r16 | r32` (spec/40_ia32.md R286). -/
  | x86PopReg (r : BitVec 3)
  /-- P1 `POP DS` (spec/40_ia32.md R287). -/
  | x86PopDs
  /-- P1 `POP ES` (spec/40_ia32.md R287). -/
  | x86PopEs
  /-- P1 `POP FS` (spec/40_ia32.md R287). -/
  | x86PopFs
  /-- P1 `POP GS` (spec/40_ia32.md R287). -/
  | x86PopGs
  /-- P1 `POP SS` (spec/40_ia32.md R288). -/
  | x86PopSs
  /-- P1 `RET (near)` (spec/40_ia32.md R296). -/
  | x86Ret
  /-- P1 `RET imm16 (near)` (spec/40_ia32.md R297). -/
  | x86RetImm (imm : BitVec 16)
  /-- P1 `RET (far)` (spec/40_ia32.md R298). -/
  | x86RetFar
  /-- P1 `RET imm16 (far)` (spec/40_ia32.md R298). -/
  | x86RetFarImm (imm : BitVec 16)
  /-- P1 `operand-size prefix` (spec/30_encoding.md R158). -/
  | x86OpSize (i : Instr)
  /-- P1 `address-size prefix` (spec/30_encoding.md R158). -/
  | x86AddrSize (i : Instr)
  /-- P1 `CS segment override` (spec/30_encoding.md R158). -/
  | x86SegCs (i : Instr)
  /-- P1 `SS segment override` (spec/30_encoding.md R158). -/
  | x86SegSs (i : Instr)
  /-- P1 `DS segment override` (spec/30_encoding.md R158). -/
  | x86SegDs (i : Instr)
  /-- P1 `ES segment override` (spec/30_encoding.md R158). -/
  | x86SegEs (i : Instr)
  /-- P1 `FS segment override` (spec/30_encoding.md R158). -/
  | x86SegFs (i : Instr)
  /-- P1 `GS segment override` (spec/30_encoding.md R158). -/
  | x86SegGs (i : Instr)
  /-- P1 `LOCK prefix` (spec/30_encoding.md R158). -/
  | x86Lock
  /-- P2 `SUB<cond>S (shifter operand #<immediate>)` (spec/41_arm.md R346). -/
  | armSubImm (cond : ArmCond) (s : Bool) (rn rd rot : BitVec 4) (imm : BitVec 8)
  /-- P2 `SUB<cond>S (shifter operand Rm, LSL #<shift_imm>; Rm alone when shift_imm = 0)` (spec/41_arm.md R346). -/
  | armSubLsl (cond : ArmCond) (s : Bool) (rn rd : BitVec 4) (sh : BitVec 5) (rm : BitVec 4)
  /-- P2 `SUB<cond>S (shifter operand Rm, LSR #<shift_imm>)` (spec/41_arm.md R346). -/
  | armSubLsr (cond : ArmCond) (s : Bool) (rn rd : BitVec 4) (sh : BitVec 5) (rm : BitVec 4)
  /-- P2 `ADD<cond>S (shifter operand #<immediate>)` (spec/41_arm.md R342). -/
  | armAddImm (cond : ArmCond) (s : Bool) (rn rd rot : BitVec 4) (imm : BitVec 8)
  /-- P2 `ADD<cond>S (shifter operand Rm, LSL #<shift_imm>; Rm alone when shift_imm = 0)` (spec/41_arm.md R342). -/
  | armAddLsl (cond : ArmCond) (s : Bool) (rn rd : BitVec 4) (sh : BitVec 5) (rm : BitVec 4)
  /-- P2 `ADD<cond>S (shifter operand Rm, LSR #<shift_imm>)` (spec/41_arm.md R342). -/
  | armAddLsr (cond : ArmCond) (s : Bool) (rn rd : BitVec 4) (sh : BitVec 5) (rm : BitVec 4)
  /-- P2 `ADC<cond>S (shifter operand #<immediate>)` (spec/41_arm.md R344). -/
  | armAdcImm (cond : ArmCond) (s : Bool) (rn rd rot : BitVec 4) (imm : BitVec 8)
  /-- P2 `ADC<cond>S (shifter operand Rm, LSL #<shift_imm>; Rm alone when shift_imm = 0)` (spec/41_arm.md R344). -/
  | armAdcLsl (cond : ArmCond) (s : Bool) (rn rd : BitVec 4) (sh : BitVec 5) (rm : BitVec 4)
  /-- P2 `ADC<cond>S (shifter operand Rm, LSR #<shift_imm>)` (spec/41_arm.md R344). -/
  | armAdcLsr (cond : ArmCond) (s : Bool) (rn rd : BitVec 4) (sh : BitVec 5) (rm : BitVec 4)
  /-- P2 `ORR<cond>S (shifter operand #<immediate>)` (spec/41_arm.md R348). -/
  | armOrrImm (cond : ArmCond) (s : Bool) (rn rd rot : BitVec 4) (imm : BitVec 8)
  /-- P2 `ORR<cond>S (shifter operand Rm, LSL #<shift_imm>; Rm alone when shift_imm = 0)` (spec/41_arm.md R348). -/
  | armOrrLsl (cond : ArmCond) (s : Bool) (rn rd : BitVec 4) (sh : BitVec 5) (rm : BitVec 4)
  /-- P2 `ORR<cond>S (shifter operand Rm, LSR #<shift_imm>)` (spec/41_arm.md R348). -/
  | armOrrLsr (cond : ArmCond) (s : Bool) (rn rd : BitVec 4) (sh : BitVec 5) (rm : BitVec 4)
  /-- P2 `MOV<cond>S (shifter operand #<immediate>)` (spec/41_arm.md R340). -/
  | armMovImm (cond : ArmCond) (s : Bool) (rd rot : BitVec 4) (imm : BitVec 8)
  /-- P2 `MOV<cond>S (shifter operand Rm, LSL #<shift_imm>; Rm alone when shift_imm = 0)` (spec/41_arm.md R340). -/
  | armMovLsl (cond : ArmCond) (s : Bool) (rd : BitVec 4) (sh : BitVec 5) (rm : BitVec 4)
  /-- P2 `MOV<cond>S (shifter operand Rm, LSR #<shift_imm>)` (spec/41_arm.md R340). -/
  | armMovLsr (cond : ArmCond) (s : Bool) (rd : BitVec 4) (sh : BitVec 5) (rm : BitVec 4)
  /-- P2 `LDR<cond> Rd, <addressing_mode> (immediate offset)` (spec/41_arm.md R350). -/
  | armLdrImm (cond : ArmCond) (mode : ArmIndex) (up : Bool) (rn rd : BitVec 4) (off : BitVec 12)
  /-- P2 `LDR<cond> Rd, <addressing_mode> (register offset, LSL #shift_imm)` (spec/41_arm.md R350). -/
  | armLdrReg (cond : ArmCond) (mode : ArmIndex) (up : Bool) (rn rd : BitVec 4) (sh : BitVec 5) (rm : BitVec 4)
  /-- P2 `B<cond>` (spec/41_arm.md R355). -/
  | armB (cond : ArmCond) (off : BitVec 24)
  /-- P2 `BL<cond>` (spec/41_arm.md R356). -/
  | armBl (cond : ArmCond) (off : BitVec 24)
  /-- P2 `BX<cond> Rm` (spec/41_arm.md R358). -/
  | armBx (cond : ArmCond) (rm : BitVec 4)
  /-- P3 `addi rD,rA,SIMM` (spec/42_powerpc.md R392). -/
  | ppcAddi (rD rA : BitVec 5) (simm : BitVec 16)
  /-- P3 `li rD,value` (spec/42_powerpc.md R392). -/
  | ppcLi (rD : BitVec 5) (simm : BitVec 16)
  /-- P3 `bc | bca | bcl | bcla BO,BI,target_addr` (spec/42_powerpc.md R400). -/
  | ppcBc (bo bi : BitVec 5) (bd : BitVec 14) (aa lk : Bool)
  /-- P3 `bclr | bclrl BO,BI` (spec/42_powerpc.md R406). -/
  | ppcBclr (bo bi : BitVec 5) (lk : Bool)
  /-- P3 `blr` (spec/42_powerpc.md R408). -/
  | ppcBlr
  /-- P3 `rlwimi | rlwimi. rA,rS,SH,MB,ME` (spec/42_powerpc.md R404). -/
  | ppcRlwimi (rA rS sh mb me : BitVec 5) (rc : Bool)
  /-- P3 `rlwinm | rlwinm. rA,rS,SH,MB,ME` (spec/42_powerpc.md R402). -/
  | ppcRlwinm (rA rS sh mb me : BitVec 5) (rc : Bool)
  /-- P3 `addc | addc. | addco | addco. rD,rA,rB` (spec/42_powerpc.md R398). -/
  | ppcAddc (rD rA rB : BitVec 5) (oe rc : Bool)
  /-- P3 `addze | addze. | addzeo | addzeo. rD,rA` (spec/42_powerpc.md R399). -/
  | ppcAddze (rD rA : BitVec 5) (oe rc : Bool)
  /-- P3 `mtspr SPR,rS` (spec/42_powerpc.md R394). -/
  | ppcMtspr (spr : BitVec 10) (rS : BitVec 5)
  /-- P3 `mtxer rS` (spec/42_powerpc.md R396). -/
  | ppcMtxer (rS : BitVec 5)
  /-- P3 `mtlr rS` (spec/42_powerpc.md R396). -/
  | ppcMtlr (rS : BitVec 5)
  /-- P3 `mtctr rS` (spec/42_powerpc.md R396). -/
  | ppcMtctr (rS : BitVec 5)
  /-- P3 `lwzu rD,d(rA)` (spec/42_powerpc.md R397). -/
  | ppcLwzu (rD rA : BitVec 5) (d : BitVec 16)
  /-- P4 `b<cond>,a label (Bicc)` (spec/43_sparc.md R460). -/
  | sparcBicc (a : Bool) (cond : SparcCond) (disp : BitVec 22)
  /-- P4 `sethi const22, reg_rd` (spec/43_sparc.md R467). -/
  | sparcSethi (imm : BitVec 22) (rd : BitVec 5)
  /-- P4 `nop` (spec/43_sparc.md R468). -/
  | sparcNop
  /-- P4 `add reg_rs1, reg_or_imm, reg_rd` (spec/43_sparc.md R453). -/
  | sparcAdd (rs1 : BitVec 5) (op2 : SparcOp2) (rd : BitVec 5)
  /-- P4 `or reg_rs1, reg_or_imm, reg_rd` (spec/43_sparc.md R452). -/
  | sparcOr (rs1 : BitVec 5) (op2 : SparcOp2) (rd : BitVec 5)
  /-- P4 `addx reg_rs1, reg_or_imm, reg_rd` (spec/43_sparc.md R455). -/
  | sparcAddx (rs1 : BitVec 5) (op2 : SparcOp2) (rd : BitVec 5)
  /-- P4 `addcc reg_rs1, reg_or_imm, reg_rd` (spec/43_sparc.md R454). -/
  | sparcAddcc (rs1 : BitVec 5) (op2 : SparcOp2) (rd : BitVec 5)
  /-- P4 `subcc reg_rs1, reg_or_imm, reg_rd` (spec/43_sparc.md R456). -/
  | sparcSubcc (rs1 : BitVec 5) (op2 : SparcOp2) (rd : BitVec 5)
  /-- P4 `sll reg_rs1, reg_or_imm, reg_rd` (spec/43_sparc.md R457). -/
  | sparcSll (rs1 : BitVec 5) (op2 : SparcOp2) (rd : BitVec 5)
  /-- P4 `srl reg_rs1, reg_or_imm, reg_rd` (spec/43_sparc.md R457). -/
  | sparcSrl (rs1 : BitVec 5) (op2 : SparcOp2) (rd : BitVec 5)
  /-- P4 `jmpl address, reg_rd` (spec/43_sparc.md R465). -/
  | sparcJmpl (rs1 : BitVec 5) (op2 : SparcOp2) (rd : BitVec 5)
  /-- P4 `ld [address], reg_rd` (spec/43_sparc.md R459). -/
  | sparcLd (rs1 : BitVec 5) (op2 : SparcOp2) (rd : BitVec 5)
  /-- P4 `cmp reg_rs1, reg_or_imm` (spec/43_sparc.md R470). -/
  | sparcCmp (rs1 : BitVec 5) (op2 : SparcOp2)
  /-- P4 `jmp address` (spec/43_sparc.md R470). -/
  | sparcJmp (rs1 : BitVec 5) (op2 : SparcOp2)
  /-- P4 `call reg_or_imm` (spec/43_sparc.md R470). -/
  | sparcCall (rs1 : BitVec 5) (op2 : SparcOp2)
  /-- P4 `ret` (spec/43_sparc.md R470). -/
  | sparcRet
  /-- P4 `retl` (spec/43_sparc.md R470). -/
  | sparcRetl
  /-- P4 `mov reg_or_imm, reg_rd | clr reg_rd` (spec/43_sparc.md R470). -/
  | sparcMov (op2 : SparcOp2) (rd : BitVec 5)
  /-- P5 `ADDIU rt, rs, immediate` (spec/44_mips32.md R531). -/
  | mipsAddiu (rt rs : BitVec 5) (imm : BitVec 16)
  /-- P5 `ORI rt, rs, immediate` (spec/44_mips32.md R532). -/
  | mipsOri (rt rs : BitVec 5) (imm : BitVec 16)
  /-- P5 `LW rt, offset(base)` (spec/44_mips32.md R533). -/
  | mipsLw (rt : BitVec 5) (off : BitVec 16) (base : BitVec 5)
  /-- P5 `BNE rs, rt, offset` (spec/44_mips32.md R536). -/
  | mipsBne (rs rt : BitVec 5) (off : BitVec 16)
  /-- P5 `ADDU rd, rs, rt` (spec/44_mips32.md R534). -/
  | mipsAddu (rd rs rt : BitVec 5)
  /-- P5 `SLTU rd, rs, rt` (spec/44_mips32.md R535). -/
  | mipsSltu (rd rs rt : BitVec 5)
  /-- P5 `JR rs (pre-Release 6 encoding)` (spec/44_mips32.md R540). -/
  | mipsJrPre (rs : BitVec 5)
  /-- P5 `JR rs (Release 6 encoding: JALR with rd = 0)` (spec/44_mips32.md R540). -/
  | mipsJrR6 (rs : BitVec 5)
  /-- P5 `EXT rt, rs, pos, size` (spec/44_mips32.md R538). -/
  | mipsExt (rt rs msbd lsb : BitVec 5)
  /-- P5 `INS rt, rs, pos, size` (spec/44_mips32.md R539). -/
  | mipsIns (rt rs msb lsb : BitVec 5)
  /-- P5 `move d, s` (spec/44_mips32.md R546). -/
  | mipsMove (rd rs : BitVec 5)
  /-- P5 `li d, value (-32768 <= value <= 32767)` (spec/44_mips32.md R548). -/
  | mipsLiAddiu (rt : BitVec 5) (imm : BitVec 16)
  /-- P5 `li d, value (0 <= value <= 65535, upper half zero)` (spec/44_mips32.md R548). -/
  | mipsLiOri (rt : BitVec 5) (imm : BitVec 16)
  /-- P6 `lh rd, offset(rs1)` (spec/45_riscv.md R586). -/
  | rvLh (rd : BitVec 5) (off : BitVec 12) (rs1 : BitVec 5)
  /-- P6 `lw rd, offset(rs1)` (spec/45_riscv.md R588). -/
  | rvLw (rd : BitVec 5) (off : BitVec 12) (rs1 : BitVec 5)
  /-- P6 `ld rd, offset(rs1)` (spec/45_riscv.md R585). -/
  | rvLd (rd : BitVec 5) (off : BitVec 12) (rs1 : BitVec 5)
  /-- P6 `lhu rd, offset(rs1)` (spec/45_riscv.md R587). -/
  | rvLhu (rd : BitVec 5) (off : BitVec 12) (rs1 : BitVec 5)
  /-- P6 `lwu rd, offset(rs1)` (spec/45_riscv.md R589). -/
  | rvLwu (rd : BitVec 5) (off : BitVec 12) (rs1 : BitVec 5)
  /-- P6 `addi rd, rs1, immediate` (spec/45_riscv.md R598). -/
  | rvAddi (rd rs1 : BitVec 5) (imm : BitVec 12)
  /-- P6 `slli rd, rs1, shamt` (spec/45_riscv.md R613). -/
  | rvSlli (rd rs1 : BitVec 5) (shamt : BitVec 6)
  /-- P6 `slti rd, rs1, immediate` (spec/45_riscv.md R607). -/
  | rvSlti (rd rs1 : BitVec 5) (imm : BitVec 12)
  /-- P6 `sltiu rd, rs1, immediate` (spec/45_riscv.md R608). -/
  | rvSltiu (rd rs1 : BitVec 5) (imm : BitVec 12)
  /-- P6 `srli rd, rs1, shamt` (spec/45_riscv.md R617). -/
  | rvSrli (rd rs1 : BitVec 5) (shamt : BitVec 6)
  /-- P6 `ori rd, rs1, immediate` (spec/45_riscv.md R603). -/
  | rvOri (rd rs1 : BitVec 5) (imm : BitVec 12)
  /-- P6 `addiw rd, rs1, immediate` (spec/45_riscv.md R599). -/
  | rvAddiw (rd rs1 : BitVec 5) (imm : BitVec 12)
  /-- P6 `slliw rd, rs1, shamt` (spec/45_riscv.md R614). -/
  | rvSlliw (rd rs1 : BitVec 5) (shamt : BitVec 6)
  /-- P6 `srliw rd, rs1, shamt` (spec/45_riscv.md R618). -/
  | rvSrliw (rd rs1 : BitVec 5) (shamt : BitVec 6)
  /-- P6 `sb rs2, offset(rs1)` (spec/45_riscv.md R592). -/
  | rvSb (rs2 : BitVec 5) (off : BitVec 12) (rs1 : BitVec 5)
  /-- P6 `sh rs2, offset(rs1)` (spec/45_riscv.md R593). -/
  | rvSh (rs2 : BitVec 5) (off : BitVec 12) (rs1 : BitVec 5)
  /-- P6 `sw rs2, offset(rs1)` (spec/45_riscv.md R594). -/
  | rvSw (rs2 : BitVec 5) (off : BitVec 12) (rs1 : BitVec 5)
  /-- P6 `add rd, rs1, rs2` (spec/45_riscv.md R597). -/
  | rvAdd (rd rs1 rs2 : BitVec 5)
  /-- P6 `sll rd, rs1, rs2` (spec/45_riscv.md R612). -/
  | rvSll (rd rs1 rs2 : BitVec 5)
  /-- P6 `slt rd, rs1, rs2` (spec/45_riscv.md R606). -/
  | rvSlt (rd rs1 rs2 : BitVec 5)
  /-- P6 `sltu rd, rs1, rs2` (spec/45_riscv.md R609). -/
  | rvSltu (rd rs1 rs2 : BitVec 5)
  /-- P6 `srl rd, rs1, rs2` (spec/45_riscv.md R616). -/
  | rvSrl (rd rs1 rs2 : BitVec 5)
  /-- P6 `or rd, rs1, rs2` (spec/45_riscv.md R602). -/
  | rvOr (rd rs1 rs2 : BitVec 5)
  /-- P6 `lui rd, immediate` (spec/45_riscv.md R601). -/
  | rvLui (rd : BitVec 5) (imm : BitVec 20)
  /-- P6 `addw rd, rs1, rs2` (spec/45_riscv.md R600). -/
  | rvAddw (rd rs1 rs2 : BitVec 5)
  /-- P6 `sllw rd, rs1, rs2` (spec/45_riscv.md R615). -/
  | rvSllw (rd rs1 rs2 : BitVec 5)
  /-- P6 `sraw rd, rs1, rs2` (spec/45_riscv.md R619). -/
  | rvSraw (rd rs1 rs2 : BitVec 5)
  /-- P6 `remw rd, rs1, rs2` (spec/45_riscv.md R622). -/
  | rvRemw (rd rs1 rs2 : BitVec 5)
  /-- P6 `remuw rd, rs1, rs2` (spec/45_riscv.md R623). -/
  | rvRemuw (rd rs1 rs2 : BitVec 5)
  /-- P6 `bne rs1, rs2, offset` (spec/45_riscv.md R627). -/
  | rvBne (rs1 rs2 : BitVec 5) (off : BitVec 12)
  /-- P6 `lr.w rd, (rs1)` (spec/45_riscv.md R631). -/
  | rvLrW (aq rl : Bool) (rd rs1 : BitVec 5)
  /-- P6 `lr.d rd, (rs1)` (spec/45_riscv.md R632). -/
  | rvLrD (aq rl : Bool) (rd rs1 : BitVec 5)
  /-- P6 `sc.d rd, rs2, (rs1)` (spec/45_riscv.md R633). -/
  | rvScD (aq rl : Bool) (rd rs2 rs1 : BitVec 5)
  /-- P6 `amoadd.d rd, rs2, (rs1)` (spec/45_riscv.md R634). -/
  | rvAmoaddD (aq rl : Bool) (rd rs2 rs1 : BitVec 5)
  /-- P6 `mret` (spec/45_riscv.md R643). -/
  | rvMret
  /-- P6 `sret` (spec/45_riscv.md R644). -/
  | rvSret
  /-- P6 `neg rd, rs2` (spec/45_riscv.md R651). -/
  | rvNeg (rd rs2 : BitVec 5)
  /-- P6 `negw rd, rs2` (spec/45_riscv.md R652). -/
  | rvNegw (rd rs2 : BitVec 5)
  /-- P6 `not rd, rs1` (spec/45_riscv.md R654). -/
  | rvNot (rd rs1 : BitVec 5)
  /-- P6 `rdcycle rd` (spec/45_riscv.md R655). -/
  | rvRdcycle (rd : BitVec 5)
  /-- P6 `ret` (spec/45_riscv.md R656). -/
  | rvRet
  /-- P6 `nop` (spec/45_riscv.md R653). -/
  | rvNop
  /-- P6 `bnez rs1, offset` (spec/45_riscv.md R650). -/
  | rvBnez (rs1 : BitVec 5) (off : BitVec 12)
  /-- P6 `li rd, immediate (-2048 <= immediate <= 2047)` (spec/45_riscv.md R648). -/
  | rvLi (rd : BitVec 5) (imm : BitVec 12)
  /-- P6 `c.add rd, rs2` (spec/45_riscv.md R637). -/
  | rvCAdd (rd rs2 : BitVec 5)
  /-- P6 `c.addi rd, imm` (spec/45_riscv.md R638). -/
  | rvCAddi (rd : BitVec 5) (imm : BitVec 6)
  /-- P6 `c.addi16sp imm` (spec/45_riscv.md R639). -/
  | rvCAddi16sp (imm : BitVec 6)
  /-- P6 `c.addi4spn rd', uimm` (spec/45_riscv.md R640). -/
  | rvCAddi4spn (rd : BitVec 3) (uimm : BitVec 8)
  deriving DecidableEq, Repr

end Sys2Proof
end

