-- ==== Sys2Proof/WellFormed.lean ====
section
/-! DEFINITION. When a term of `Instr` is an instruction that the encodings of spec/30_encoding.md can write, and
which core instruction an assembler name of the table stands for (spec/30_encoding.md R240, `alias_of`). -/

namespace Sys2Proof

/-! ### P1 -/

/-- A 32-bit ModR/M or SIB operand exists with `AddressSize` 32 only, a 16-bit one with `AddressSize` 16 only
(spec/30_encoding.md R154 to R156). ESP is a base only through a SIB byte; EBP, and r/m 6 of the 16-bit table, have no
form without a displacement. -/
def X86Mem.wf (addr32 : Bool) : X86Mem → Bool
  | .disp32 _ => addr32
  | .base32 r d => addr32 && r != 4#3 && (r != 5#3 || d != .none)
  | .sib _ _ base d => addr32 && (base != 5#3 || d != .none)
  | .sibNoBase _ _ _ => addr32
  | .disp16 _ => !addr32
  | .base16 rm d => !addr32 && (rm != 6#3 || d != .none)

/-- A register operand has every number; a memory operand must be one the address size has. -/
def X86RM.wf (addr32 : Bool) : X86RM → Bool
  | .reg _ => true
  | .mem m => m.wf addr32

/-- A 16-bit immediate or moffs offset has nothing in the upper half of the field that holds it. -/
def fitsSize (size32 : Bool) (v : BitVec 32) : Bool :=
  size32 || v.extractLsb' 16 16 == 0#16

/-- Well-formedness of a P1 instruction under the default size `csD` and the prefixes before it: each size prefix at
most once, at most one segment override, operands of the resulting sizes (spec/30_encoding.md R158). Instructions of
the other parts are not P1 instructions. -/
def Instr.wfX86 (csD : Bool) : X86Pfx → Instr → Bool
  | p, .x86OpSize i => !p.op && i.wfX86 csD { p with op := true }
  | p, .x86AddrSize i => !p.addr && i.wfX86 csD { p with addr := true }
  | p, .x86SegCs i => p.seg.isNone && i.wfX86 csD { p with seg := some .cs }
  | p, .x86SegSs i => p.seg.isNone && i.wfX86 csD { p with seg := some .ss }
  | p, .x86SegDs i => p.seg.isNone && i.wfX86 csD { p with seg := some .ds }
  | p, .x86SegEs i => p.seg.isNone && i.wfX86 csD { p with seg := some .es }
  | p, .x86SegFs i => p.seg.isNone && i.wfX86 csD { p with seg := some .fs }
  | p, .x86SegGs i => p.seg.isNone && i.wfX86 csD { p with seg := some .gs }
  | p, .x86PushImm v | p, .x86XorAxImm v | p, .x86AddAxImm v | p, .x86AdcAxImm v | p, .x86MovRImm _ v =>
    fitsSize (csD != p.op) v
  | p, .x86XorRmImm rm v | p, .x86AddRmImm rm v | p, .x86AdcRmImm rm v | p, .x86MovRmImm rm v =>
    rm.wf (csD != p.addr) && fitsSize (csD != p.op) v
  | p, .x86MovAlMoffs v | p, .x86MovAxMoffs v | p, .x86MovMoffsAl v | p, .x86MovMoffsAx v =>
    fitsSize (csD != p.addr) v
  | p, .x86PushRm rm | p, .x86XorRm8Imm8 rm _ | p, .x86XorRmImm8 rm _ | p, .x86XorRm8R8 rm _ | p, .x86XorRmR rm _
  | p, .x86XorR8Rm8 _ rm | p, .x86XorRRm _ rm | p, .x86MovRm8R8 rm _ | p, .x86MovRmR rm _ | p, .x86MovR8Rm8 _ rm
  | p, .x86MovRRm _ rm | p, .x86MovRmSreg rm _ | p, .x86MovSregRm _ rm | p, .x86MovRm8Imm8 rm _
  | p, .x86AddRm8Imm8 rm _ | p, .x86AddRmImm8 rm _ | p, .x86AddRm8R8 rm _ | p, .x86AddRmR rm _
  | p, .x86AddR8Rm8 _ rm | p, .x86AddRRm _ rm | p, .x86AdcRm8Imm8 rm _ | p, .x86AdcRmImm8 rm _
  | p, .x86AdcRm8R8 rm _ | p, .x86AdcRmR rm _ | p, .x86AdcR8Rm8 _ rm | p, .x86AdcRRm _ rm | p, .x86ShrdImm rm _ _
  | p, .x86ShrdCl rm _ | p, .x86XchgRm8R8 rm _ | p, .x86XchgRmR rm _ =>
    rm.wf (csD != p.addr)
  | p, .x86PopMem m => m.wf (csD != p.addr)
  | _, .x86PushReg _ | _, .x86PushImm8 _ | _, .x86PushCs | _, .x86PushSs | _, .x86PushDs | _, .x86PushEs
  | _, .x86PushFs | _, .x86PushGs | _, .x86XorAlImm8 _ | _, .x86MovR8Imm8 _ _ | _, .x86AddAlImm8 _
  | _, .x86AdcAlImm8 _ | _, .x86Loop _ | _, .x86Loope _ | _, .x86Loopne _ | _, .x86XchgAxR _ | _, .x86PopReg _
  | _, .x86PopDs | _, .x86PopEs | _, .x86PopFs | _, .x86PopGs | _, .x86PopSs | _, .x86Ret | _, .x86RetImm _
  | _, .x86RetFar | _, .x86RetFarImm _ | _, .x86Lock => true
  | _, _ => false

/-! ### P2 to P6 -/

/-- Well-formedness of an instruction of P2 to P6: LDR's offset register is not R15 (spec/30_encoding.md R168), and
the compressed formats' "Invalid when" (R227). Every other operand field takes every value. -/
def Instr.wfWord : Instr → Bool
  | .armLdrReg _ _ _ _ _ _ rm => rm != 15#4
  | .rvCAdd rd rs2 => rd != 0#5 && rs2 != 0#5
  | .rvCAddi16sp imm => imm != 0#6
  | .rvCAddi4spn _ uimm => uimm != 0#8
  | _ => true

/-- The part whose instruction this is (spec/00_scope.md R1: no rule of one part applies to another). A prefix byte
belongs to P1 whatever it precedes. -/
def Instr.part : Instr → Part
  | .x86PushRm _ | .x86PushReg _ | .x86PushImm8 _ | .x86PushImm _ | .x86PushCs | .x86PushSs | .x86PushDs
  | .x86PushEs | .x86PushFs | .x86PushGs | .x86XorAlImm8 _ | .x86XorAxImm _ | .x86XorRm8Imm8 _ _ | .x86XorRmImm _ _
  | .x86XorRmImm8 _ _ | .x86XorRm8R8 _ _ | .x86XorRmR _ _ | .x86XorR8Rm8 _ _ | .x86XorRRm _ _ | .x86MovRm8R8 _ _
  | .x86MovRmR _ _ | .x86MovR8Rm8 _ _ | .x86MovRRm _ _ | .x86MovRmSreg _ _ | .x86MovSregRm _ _ | .x86MovAlMoffs _
  | .x86MovAxMoffs _ | .x86MovMoffsAl _ | .x86MovMoffsAx _ | .x86MovR8Imm8 _ _ | .x86MovRImm _ _
  | .x86MovRm8Imm8 _ _ | .x86MovRmImm _ _ | .x86AddAlImm8 _ | .x86AddAxImm _ | .x86AddRm8Imm8 _ _
  | .x86AddRmImm _ _ | .x86AddRmImm8 _ _ | .x86AddRm8R8 _ _ | .x86AddRmR _ _ | .x86AddR8Rm8 _ _ | .x86AddRRm _ _
  | .x86AdcAlImm8 _ | .x86AdcAxImm _ | .x86AdcRm8Imm8 _ _ | .x86AdcRmImm _ _ | .x86AdcRmImm8 _ _ | .x86AdcRm8R8 _ _
  | .x86AdcRmR _ _ | .x86AdcR8Rm8 _ _ | .x86AdcRRm _ _ | .x86Loop _ | .x86Loope _ | .x86Loopne _
  | .x86ShrdImm _ _ _ | .x86ShrdCl _ _ | .x86XchgAxR _ | .x86XchgRm8R8 _ _ | .x86XchgRmR _ _ | .x86PopMem _
  | .x86PopReg _ | .x86PopDs | .x86PopEs | .x86PopFs | .x86PopGs | .x86PopSs | .x86Ret | .x86RetImm _ | .x86RetFar
  | .x86RetFarImm _ | .x86OpSize _ | .x86AddrSize _ | .x86SegCs _ | .x86SegSs _ | .x86SegDs _ | .x86SegEs _
  | .x86SegFs _ | .x86SegGs _ | .x86Lock => .p1
  | .armSubImm _ _ _ _ _ _ | .armSubLsl _ _ _ _ _ _ | .armSubLsr _ _ _ _ _ _ | .armAddImm _ _ _ _ _ _
  | .armAddLsl _ _ _ _ _ _ | .armAddLsr _ _ _ _ _ _ | .armAdcImm _ _ _ _ _ _ | .armAdcLsl _ _ _ _ _ _
  | .armAdcLsr _ _ _ _ _ _ | .armOrrImm _ _ _ _ _ _ | .armOrrLsl _ _ _ _ _ _ | .armOrrLsr _ _ _ _ _ _
  | .armMovImm _ _ _ _ _ | .armMovLsl _ _ _ _ _ | .armMovLsr _ _ _ _ _ | .armLdrImm _ _ _ _ _ _
  | .armLdrReg _ _ _ _ _ _ _ | .armB _ _ | .armBl _ _ | .armBx _ _ => .p2
  | .ppcAddi _ _ _ | .ppcLi _ _ | .ppcBc _ _ _ _ _ | .ppcBclr _ _ _ | .ppcBlr | .ppcRlwimi _ _ _ _ _ _
  | .ppcRlwinm _ _ _ _ _ _ | .ppcAddc _ _ _ _ _ | .ppcAddze _ _ _ _ | .ppcMtspr _ _ | .ppcMtxer _ | .ppcMtlr _
  | .ppcMtctr _ | .ppcLwzu _ _ _ => .p3
  | .sparcBicc _ _ _ | .sparcSethi _ _ | .sparcNop | .sparcAdd _ _ _ | .sparcOr _ _ _ | .sparcAddx _ _ _
  | .sparcAddcc _ _ _ | .sparcSubcc _ _ _ | .sparcSll _ _ _ | .sparcSrl _ _ _ | .sparcJmpl _ _ _ | .sparcLd _ _ _
  | .sparcCmp _ _ | .sparcJmp _ _ | .sparcCall _ _ | .sparcRet | .sparcRetl | .sparcMov _ _ => .p4
  | .mipsAddiu _ _ _ | .mipsOri _ _ _ | .mipsLw _ _ _ | .mipsBne _ _ _ | .mipsAddu _ _ _ | .mipsSltu _ _ _
  | .mipsJrPre _ | .mipsJrR6 _ | .mipsExt _ _ _ _ | .mipsIns _ _ _ _ | .mipsMove _ _ | .mipsLiAddiu _ _
  | .mipsLiOri _ _ => .p5
  | .rvLh _ _ _ | .rvLw _ _ _ | .rvLd _ _ _ | .rvLhu _ _ _ | .rvLwu _ _ _ | .rvAddi _ _ _ | .rvSlli _ _ _
  | .rvSlti _ _ _ | .rvSltiu _ _ _ | .rvSrli _ _ _ | .rvOri _ _ _ | .rvAddiw _ _ _ | .rvSlliw _ _ _
  | .rvSrliw _ _ _ | .rvSb _ _ _ | .rvSh _ _ _ | .rvSw _ _ _ | .rvAdd _ _ _ | .rvSll _ _ _ | .rvSlt _ _ _
  | .rvSltu _ _ _ | .rvSrl _ _ _ | .rvOr _ _ _ | .rvLui _ _ | .rvAddw _ _ _ | .rvSllw _ _ _ | .rvSraw _ _ _
  | .rvRemw _ _ _ | .rvRemuw _ _ _ | .rvBne _ _ _ | .rvLrW _ _ _ _ | .rvLrD _ _ _ _ | .rvScD _ _ _ _ _
  | .rvAmoaddD _ _ _ _ _ | .rvMret | .rvSret | .rvNeg _ _ | .rvNegw _ _ | .rvNot _ _ | .rvRdcycle _ | .rvRet
  | .rvNop | .rvBnez _ _ | .rvLi _ _ | .rvCAdd _ _ | .rvCAddi _ _ | .rvCAddi16sp _ | .rvCAddi4spn _ _ => .p6

/-- Well-formed: the encodings can write it. `csD` is the D flag of CS, which only P1 reads (spec/10_state.md R28). -/
def Instr.wf (csD : Bool) (i : Instr) : Bool :=
  match i.part with
  | .p1 => i.wfX86 csD .none
  | _ => i.wfWord

/-! ### Assembler names -/

/-- The instruction whose words an assembler name writes (spec/30_encoding.md R240; spec/42_powerpc.md R392, R396,
R408; spec/43_sparc.md R468, R470; spec/44_mips32.md R546, R548; spec/45_riscv.md R648, R650, R653); every other
instruction is its own core. -/
def Instr.core : Instr → Instr
  | .ppcLi rD simm => .ppcAddi rD 0#5 simm
  | .ppcBlr => .ppcBclr 20#5 0#5 false
  | .ppcMtxer rS => .ppcMtspr 1#10 rS
  | .ppcMtlr rS => .ppcMtspr 8#10 rS
  | .ppcMtctr rS => .ppcMtspr 9#10 rS
  | .sparcNop => .sparcSethi 0#22 0#5
  | .sparcCmp rs1 op2 => .sparcSubcc rs1 op2 0#5
  | .sparcJmp rs1 op2 => .sparcJmpl rs1 op2 0#5
  | .sparcCall rs1 op2 => .sparcJmpl rs1 op2 15#5
  | .sparcRet => .sparcJmpl 31#5 (.imm 8#13) 0#5
  | .sparcRetl => .sparcJmpl 15#5 (.imm 8#13) 0#5
  | .sparcMov op2 rd => .sparcOr 0#5 op2 rd
  | .mipsMove rd rs => .mipsAddu rd rs 0#5
  | .mipsLiAddiu rt imm => .mipsAddiu rt 0#5 imm
  | .mipsLiOri rt imm => .mipsOri rt 0#5 imm
  | .rvNop => .rvAddi 0#5 0#5 0#12
  | .rvBnez rs1 off => .rvBne rs1 0#5 off
  | .rvLi rd imm => .rvAddi rd 0#5 imm
  | i => i

end Sys2Proof
end

