-- ==== Sys2Proof/Decode.lean ====
section
/-! DEFINITION. The decoder and the encoder, both from the encodings of spec/30_encoding.md. The decoder of a part
reads no configuration but the D flag of CS (P1): which releases and extensions have an instruction is tested by its
meaning (notes/assumptions/39.md). Assembler names are not decode rows (R240). -/

namespace Sys2Proof

/-! ### Bit fields -/

/-- One field of an encoding: its width and its value. -/
def fd (v : BitVec k) : Nat × Nat := (k, v.toNat)

/-- A one-bit field. -/
def fdb (b : Bool) : Nat × Nat := (1, b.toNat)

/-- Fields side by side, the first the most significant (`a || b` of spec/00_scope.md R9). -/
def assemble : Nat → List (Nat × Nat) → Nat
  | acc, [] => acc
  | acc, (k, v) :: t => assemble (acc * 2 ^ k + v) t

/-- An `n`-bit word from its fields, the first the most significant. -/
def bitsOf (n : Nat) (l : List (Nat × Nat)) : BitVec n := BitVec.ofNat n (assemble 0 l)

/-- The `k`-bit field of `w` whose lowest bit is bit `lo` (LSB-0). -/
def fld (w : BitVec n) (lo k : Nat) : BitVec k := w.extractLsb' lo k

/-- Bit `i` of `w` (LSB-0). -/
def bitAt (w : BitVec n) (i : Nat) : Bool := w.getLsbD i

/-- What a decoder answers. -/
abbrev Decoded (α : Type) := Except DecodeErr α

/-- The encoding of an instruction: bytes for P1, one word for P2 to P6, one halfword for a compressed instruction. -/
inductive Code
  | bytes (l : List Byte)
  | word (w : Word)
  | half (h : Half)
  deriving DecidableEq, Repr

/-! ### P1: immediates, ModR/M, SIB (spec/30_encoding.md R151 to R159) -/

/-- A 16-bit value, least-significant byte first (R159). -/
def bytes16 (v : BitVec 16) : List Byte := [fld v 0 8, fld v 8 8]

/-- A 32-bit value, least-significant byte first (R159). -/
def bytes32 (v : BitVec 32) : List Byte := [fld v 0 8, fld v 8 8, fld v 16 8, fld v 24 8]

/-- A value of 16 or 32 bits by a size attribute. -/
def bytesBySize (size32 : Bool) (v : BitVec 32) : List Byte :=
  if size32 then bytes32 v else bytes16 (fld v 0 16)

/-- The first byte, for the rest of a decoder. -/
def take8 (l : List Byte) (k : BitVec 8 → List Byte → Decoded α) : Decoded α :=
  match l with
  | b :: t => k b t
  | [] => .error .short

/-- The first two bytes as a 16-bit value. -/
def take16 (l : List Byte) (k : BitVec 16 → List Byte → Decoded α) : Decoded α :=
  match l with
  | b0 :: b1 :: t => k (bitsOf 16 [fd b1, fd b0]) t
  | _ => .error .short

/-- The first four bytes as a 32-bit value. -/
def take32 (l : List Byte) (k : BitVec 32 → List Byte → Decoded α) : Decoded α :=
  match l with
  | b0 :: b1 :: b2 :: b3 :: t => k (bitsOf 32 [fd b3, fd b2, fd b1, fd b0]) t
  | _ => .error .short

/-- A value of 16 or 32 bits by a size attribute, held as 32 bits. -/
def takeBySize (size32 : Bool) (l : List Byte) (k : BitVec 32 → List Byte → Decoded α) : Decoded α :=
  if size32 then take32 l k else take16 l fun v t => k (v.setWidth 32) t

/-- The ModR/M byte (R154). -/
def modrm (mod : BitVec 2) (reg rm : BitVec 3) : Byte := bitsOf 8 [fd mod, fd reg, fd rm]

/-- The SIB byte (R155). -/
def sibByte (scale : BitVec 2) (index base : BitVec 3) : Byte := bitsOf 8 [fd scale, fd index, fd base]

/-- The mod field a 32-bit displacement asks for (R154). -/
def X86Disp32.mod : X86Disp32 → BitVec 2
  | .none => 0
  | .d8 _ => 1
  | .d32 _ => 2

/-- The bytes of a 32-bit operand's displacement. -/
def X86Disp32.bytes : X86Disp32 → List Byte
  | .none => []
  | .d8 v => [v]
  | .d32 v => bytes32 v

/-- The mod field a 16-bit displacement asks for (R156). -/
def X86Disp16.mod : X86Disp16 → BitVec 2
  | .none => 0
  | .d8 _ => 1
  | .d16 _ => 2

/-- The bytes of a 16-bit operand's displacement. -/
def X86Disp16.bytes : X86Disp16 → List Byte
  | .none => []
  | .d8 v => [v]
  | .d16 v => bytes16 v

/-- ModR/M, SIB and displacement bytes of a memory operand, `reg` in the ModR/M reg field. -/
def encodeMem (reg : BitVec 3) : X86Mem → List Byte
  | .disp32 v => modrm 0 reg 5 :: bytes32 v
  | .base32 r d => modrm d.mod reg r :: d.bytes
  | .sib scale index base d => modrm d.mod reg 4 :: sibByte scale index base :: d.bytes
  | .sibNoBase scale index v => modrm 0 reg 4 :: sibByte scale index 5 :: bytes32 v
  | .disp16 v => modrm 0 reg 6 :: bytes16 v
  | .base16 rm d => modrm d.mod reg rm :: d.bytes

/-- ModR/M, SIB and displacement bytes of an r/m operand. -/
def encodeRM (reg : BitVec 3) : X86RM → List Byte
  | .reg n => [modrm 3 reg n]
  | .mem m => encodeMem reg m

/-- The displacement that `mod` calls for with `AddressSize` 32. -/
def takeDisp32 (mod : BitVec 2) (l : List Byte) (k : X86Disp32 → List Byte → Decoded α) : Decoded α :=
  if mod = 0 then k .none l
  else if mod = 1 then take8 l fun v t => k (.d8 v) t
  else take32 l fun v t => k (.d32 v) t

/-- The displacement that `mod` calls for with `AddressSize` 16. -/
def takeDisp16 (mod : BitVec 2) (l : List Byte) (k : X86Disp16 → List Byte → Decoded α) : Decoded α :=
  if mod = 0 then k .none l
  else if mod = 1 then take8 l fun v t => k (.d8 v) t
  else take16 l fun v t => k (.d16 v) t

/-- The memory operand of a ModR/M byte with mod other than 11 (R154, R155, R156). -/
def takeMem (addr32 : Bool) (mod : BitVec 2) (rm : BitVec 3) (l : List Byte)
    (k : X86Mem → List Byte → Decoded α) : Decoded α :=
  if addr32 then
    if rm = 4 then
      take8 l fun s l =>
        if mod = 0 ∧ fld s 0 3 = 5#3 then
          take32 l fun v t => k (.sibNoBase (fld s 6 2) (fld s 3 3) v) t
        else takeDisp32 mod l fun d t => k (.sib (fld s 6 2) (fld s 3 3) (fld s 0 3) d) t
    else if mod = 0 ∧ rm = 5 then take32 l fun v t => k (.disp32 v) t
    else takeDisp32 mod l fun d t => k (.base32 rm d) t
  else if mod = 0 ∧ rm = 6 then take16 l fun v t => k (.disp16 v) t
  else takeDisp16 mod l fun d t => k (.base16 rm d) t

/-- A ModR/M byte and what follows it: the reg field and the r/m operand. -/
def takeRM (addr32 : Bool) (l : List Byte) (k : BitVec 3 → X86RM → List Byte → Decoded α) : Decoded α :=
  take8 l fun b l =>
    if fld b 6 2 = 3#2 then k (fld b 3 3) (.reg (fld b 0 3)) l
    else takeMem addr32 (fld b 6 2) (fld b 0 3) l fun m t => k (fld b 3 3) (.mem m) t

/-- A ModR/M byte whose reg field is a listed `/digit`, and what follows it; one that is not is refused before any later
byte is looked at (R160, R240). -/
def takeDigit (addr32 : Bool) (listed : BitVec 3 → Bool) (l : List Byte) (k : BitVec 3 → X86RM → List Byte → Decoded α) :
    Decoded α :=
  take8 l fun b _ => if listed (fld b 3 3) then takeRM addr32 l k else .error .notListed

/-! ### P1: the three arithmetic families share their opcode layout (spec/30_encoding.md R160) -/

/-- ADD, ADC, XOR. -/
inductive X86Alu
  | add
  | adc
  | xor
  deriving DecidableEq, Repr

/-- The family of a `/digit`, which is also bits 5:3 of its direct opcodes. -/
def X86Alu.ofDigit (d : BitVec 3) : Option X86Alu :=
  if d = 0 then some .add else if d = 2 then some .adc else if d = 6 then some .xor else none

/-- The `/digit` of a family. -/
def X86Alu.digit : X86Alu → BitVec 3
  | .add => 0
  | .adc => 2
  | .xor => 6

/-- Opcodes `x4 ib`. -/
def X86Alu.alImm8 : X86Alu → BitVec 8 → Instr
  | .add => .x86AddAlImm8
  | .adc => .x86AdcAlImm8
  | .xor => .x86XorAlImm8

/-- Opcodes `x5 iw/id`. -/
def X86Alu.axImm : X86Alu → BitVec 32 → Instr
  | .add => .x86AddAxImm
  | .adc => .x86AdcAxImm
  | .xor => .x86XorAxImm

/-- Opcode `80 /digit ib`. -/
def X86Alu.rm8Imm8 : X86Alu → X86RM → BitVec 8 → Instr
  | .add => .x86AddRm8Imm8
  | .adc => .x86AdcRm8Imm8
  | .xor => .x86XorRm8Imm8

/-- Opcode `81 /digit iw/id`. -/
def X86Alu.rmImm : X86Alu → X86RM → BitVec 32 → Instr
  | .add => .x86AddRmImm
  | .adc => .x86AdcRmImm
  | .xor => .x86XorRmImm

/-- Opcode `83 /digit ib`. -/
def X86Alu.rmImm8 : X86Alu → X86RM → BitVec 8 → Instr
  | .add => .x86AddRmImm8
  | .adc => .x86AdcRmImm8
  | .xor => .x86XorRmImm8

/-- Opcodes `x0 /r`. -/
def X86Alu.rm8R8 : X86Alu → X86RM → BitVec 3 → Instr
  | .add => .x86AddRm8R8
  | .adc => .x86AdcRm8R8
  | .xor => .x86XorRm8R8

/-- Opcodes `x1 /r`. -/
def X86Alu.rmR : X86Alu → X86RM → BitVec 3 → Instr
  | .add => .x86AddRmR
  | .adc => .x86AdcRmR
  | .xor => .x86XorRmR

/-- Opcodes `x2 /r`. -/
def X86Alu.r8Rm8 : X86Alu → BitVec 3 → X86RM → Instr
  | .add => .x86AddR8Rm8
  | .adc => .x86AdcR8Rm8
  | .xor => .x86XorR8Rm8

/-- Opcodes `x3 /r`. -/
def X86Alu.rRm : X86Alu → BitVec 3 → X86RM → Instr
  | .add => .x86AddRRm
  | .adc => .x86AdcRRm
  | .xor => .x86XorRRm

/-- The direct opcodes of a family, by bits 2:0 (00 to 05 past the family's base). -/
def decodeX86AluDirect (a : X86Alu) (k : BitVec 3) (op32 addr32 : Bool) (l : List Byte) : Decoded Instr :=
  if k = 0 then takeRM addr32 l fun r rm _ => .ok (a.rm8R8 rm r)
  else if k = 1 then takeRM addr32 l fun r rm _ => .ok (a.rmR rm r)
  else if k = 2 then takeRM addr32 l fun r rm _ => .ok (a.r8Rm8 r rm)
  else if k = 3 then takeRM addr32 l fun r rm _ => .ok (a.rRm r rm)
  else if k = 4 then take8 l fun v _ => .ok (a.alImm8 v)
  else takeBySize op32 l fun v _ => .ok (a.axImm v)

/-- The groups 80, 81 and 83: the ModR/M reg field is the `/digit`. -/
def decodeX86AluGroup (b : Byte) (op32 addr32 : Bool) (l : List Byte) : Decoded Instr :=
  takeDigit addr32 (fun d => (X86Alu.ofDigit d).isSome) l fun d rm l =>
    match X86Alu.ofDigit d with
    | none => .error .notListed
    | some a =>
      if b = 0x80#8 then take8 l fun v _ => .ok (a.rm8Imm8 rm v)
      else if b = 0x81#8 then takeBySize op32 l fun v _ => .ok (a.rmImm rm v)
      else take8 l fun v _ => .ok (a.rmImm8 rm v)

/-! ### P1: the opcode map (spec/30_encoding.md R160, R161) -/

/-- The second byte after 0F. -/
def decodeX86TwoByte (b : Byte) (addr32 : Bool) (l : List Byte) : Decoded Instr :=
  if b = 0xA0#8 then .ok .x86PushFs
  else if b = 0xA1#8 then .ok .x86PopFs
  else if b = 0xA8#8 then .ok .x86PushGs
  else if b = 0xA9#8 then .ok .x86PopGs
  else if b = 0xAC#8 then takeRM addr32 l fun r rm l => take8 l fun v _ => .ok (.x86ShrdImm rm r v)
  else if b = 0xAD#8 then takeRM addr32 l fun r rm _ => .ok (.x86ShrdCl rm r)
  else .error .notListed

/-- Opcodes with a ModR/M byte outside the arithmetic families; any other byte is listed nowhere, and refused before a
later byte is looked at (R240). -/
def decodeX86ModRM (b : Byte) (op32 addr32 : Bool) (l : List Byte) : Decoded Instr :=
  if b = 0x86#8 then takeRM addr32 l fun r rm _ => .ok (.x86XchgRm8R8 rm r)
  else if b = 0x87#8 then takeRM addr32 l fun r rm _ => .ok (.x86XchgRmR rm r)
  else if b = 0x88#8 then takeRM addr32 l fun r rm _ => .ok (.x86MovRm8R8 rm r)
  else if b = 0x89#8 then takeRM addr32 l fun r rm _ => .ok (.x86MovRmR rm r)
  else if b = 0x8A#8 then takeRM addr32 l fun r rm _ => .ok (.x86MovR8Rm8 r rm)
  else if b = 0x8B#8 then takeRM addr32 l fun r rm _ => .ok (.x86MovRRm r rm)
  else if b = 0x8C#8 then takeRM addr32 l fun r rm _ => .ok (.x86MovRmSreg rm r)
  else if b = 0x8E#8 then takeRM addr32 l fun r rm _ => .ok (.x86MovSregRm r rm)
  else if b = 0x8F#8 then
    takeDigit addr32 (· == 0) l fun _ rm _ =>
      match rm with
      | .mem m => .ok (.x86PopMem m)
      | .reg _ => .error .popRegisterForm
  else if b = 0xC6#8 then takeDigit addr32 (· == 0) l fun _ rm l => take8 l fun v _ => .ok (.x86MovRm8Imm8 rm v)
  else if b = 0xC7#8 then
    takeDigit addr32 (· == 0) l fun _ rm l => takeBySize op32 l fun v _ => .ok (.x86MovRmImm rm v)
  else if b = 0xFF#8 then takeDigit addr32 (· == 6) l fun _ rm _ => .ok (.x86PushRm rm)
  else .error .notListed

/-- The opcodes that carry no ModR/M byte and no register number. -/
def decodeX86Plain (b : Byte) (op32 addr32 : Bool) (l : List Byte) : Decoded Instr :=
  if b = 0x06#8 then .ok .x86PushEs
  else if b = 0x07#8 then .ok .x86PopEs
  else if b = 0x0E#8 then .ok .x86PushCs
  else if b = 0x16#8 then .ok .x86PushSs
  else if b = 0x17#8 then .ok .x86PopSs
  else if b = 0x1E#8 then .ok .x86PushDs
  else if b = 0x1F#8 then .ok .x86PopDs
  else if b = 0x68#8 then takeBySize op32 l fun v _ => .ok (.x86PushImm v)
  else if b = 0x6A#8 then take8 l fun v _ => .ok (.x86PushImm8 v)
  else if b = 0xA0#8 then takeBySize addr32 l fun v _ => .ok (.x86MovAlMoffs v)
  else if b = 0xA1#8 then takeBySize addr32 l fun v _ => .ok (.x86MovAxMoffs v)
  else if b = 0xA2#8 then takeBySize addr32 l fun v _ => .ok (.x86MovMoffsAl v)
  else if b = 0xA3#8 then takeBySize addr32 l fun v _ => .ok (.x86MovMoffsAx v)
  else if b = 0xC2#8 then take16 l fun v _ => .ok (.x86RetImm v)
  else if b = 0xC3#8 then .ok .x86Ret
  else if b = 0xCA#8 then take16 l fun v _ => .ok (.x86RetFarImm v)
  else if b = 0xCB#8 then .ok .x86RetFar
  else if b = 0xE0#8 then take8 l fun v _ => .ok (.x86Loopne v)
  else if b = 0xE1#8 then take8 l fun v _ => .ok (.x86Loope v)
  else if b = 0xE2#8 then take8 l fun v _ => .ok (.x86Loop v)
  else if b = 0xF0#8 then .ok .x86Lock
  else decodeX86ModRM b op32 addr32 l

/-- The opcode byte and what follows it, after the prefixes. -/
def decodeX86Opcode (op32 addr32 : Bool) (b : Byte) (l : List Byte) : Decoded Instr :=
  if fld b 3 5 = 0x0A#5 then .ok (.x86PushReg (fld b 0 3))
  else if fld b 3 5 = 0x0B#5 then .ok (.x86PopReg (fld b 0 3))
  else if fld b 3 5 = 0x12#5 then .ok (.x86XchgAxR (fld b 0 3))
  else if fld b 3 5 = 0x16#5 then take8 l fun v _ => .ok (.x86MovR8Imm8 (fld b 0 3) v)
  else if fld b 3 5 = 0x17#5 then takeBySize op32 l fun v _ => .ok (.x86MovRImm (fld b 0 3) v)
  else if b = 0x0F#8 then take8 l fun b2 t => decodeX86TwoByte b2 addr32 t
  else if b = 0x80#8 ∨ b = 0x81#8 ∨ b = 0x83#8 then decodeX86AluGroup b op32 addr32 l
  else if fld b 6 2 = 0#2 ∧ fld b 1 2 ≠ 3#2 then
    match X86Alu.ofDigit (fld b 3 3) with
    | some a => decodeX86AluDirect a (fld b 0 3) op32 addr32 l
    | none => decodeX86Plain b op32 addr32 l
  else decodeX86Plain b op32 addr32 l

/-- The segment register of an override byte (R158). -/
def overrideOf (b : Byte) : Option X86Sreg :=
  if b = 0x2E#8 then some .cs
  else if b = 0x36#8 then some .ss
  else if b = 0x3E#8 then some .ds
  else if b = 0x26#8 then some .es
  else if b = 0x64#8 then some .fs
  else if b = 0x65#8 then some .gs
  else none

/-- The override byte of a segment register (R158). -/
def X86Sreg.override : X86Sreg → Byte
  | .cs => 0x2E#8
  | .ss => 0x36#8
  | .ds => 0x3E#8
  | .es => 0x26#8
  | .fs => 0x64#8
  | .gs => 0x65#8

/-- The instruction `i` after the override byte of `sg`. -/
def overridden (i : Instr) : X86Sreg → Instr
  | .cs => .x86SegCs i
  | .ss => .x86SegSs i
  | .ds => .x86SegDs i
  | .es => .x86SegEs i
  | .fs => .x86SegFs i
  | .gs => .x86SegGs i

/-- An IA-32 instruction from the bytes at CS:EIP, bytes past its end ignored (spec/30_encoding.md R150, R158): `csD`
is CS.D and `p` the prefixes read so far. -/
def decodeX86 (csD : Bool) : X86Pfx → List Byte → Decoded Instr
  | _, [] => .error .short
  | p, b :: l =>
    if b = 0x66#8 then
      if p.op then .error .repeatedPrefix else (decodeX86 csD { p with op := true } l).map .x86OpSize
    else if b = 0x67#8 then
      if p.addr then .error .repeatedPrefix else (decodeX86 csD { p with addr := true } l).map .x86AddrSize
    else
      match overrideOf b with
      | some sg =>
        if p.seg.isSome then .error .secondOverride
        else (decodeX86 csD { p with seg := some sg } l).map fun i => overridden i sg
      | none => decodeX86Opcode (csD != p.op) (csD != p.addr) b l

/-! ### P2 (spec/30_encoding.md R165 to R171) -/

/-- The condition of a code; 1111 is none (spec/41_arm.md R331). -/
def ArmCond.ofCode (c : BitVec 4) : Option ArmCond :=
  if c = 0 then some .eq else if c = 1 then some .ne else if c = 2 then some .cs else if c = 3 then some .cc
  else if c = 4 then some .mi else if c = 5 then some .pl else if c = 6 then some .vs else if c = 7 then some .vc
  else if c = 8 then some .hi else if c = 9 then some .ls else if c = 10 then some .ge else if c = 11 then some .lt
  else if c = 12 then some .gt else if c = 13 then some .le else if c = 14 then some .al else none

/-- The code of a condition. -/
def ArmCond.code : ArmCond → BitVec 4
  | .eq => 0 | .ne => 1 | .cs => 2 | .cc => 3 | .mi => 4 | .pl => 5 | .vs => 6 | .vc => 7
  | .hi => 8 | .ls => 9 | .ge => 10 | .lt => 11 | .gt => 12 | .le => 13 | .al => 14

/-- The data-processing instructions with Rn. -/
inductive ArmAlu
  | sub
  | add
  | adc
  | orr
  deriving DecidableEq, Repr

/-- The opcode field of a data-processing instruction (R166). -/
def ArmAlu.opcode : ArmAlu → BitVec 4
  | .sub => 2
  | .add => 4
  | .adc => 5
  | .orr => 12

/-- The data-processing instruction of an opcode field, MOV apart. -/
def ArmAlu.ofOpcode (c : BitVec 4) : Option ArmAlu :=
  if c = 2 then some .sub else if c = 4 then some .add else if c = 5 then some .adc
  else if c = 12 then some .orr else none

/-- The immediate form. -/
def ArmAlu.imm : ArmAlu → ArmCond → Bool → BitVec 4 → BitVec 4 → BitVec 4 → BitVec 8 → Instr
  | .sub => .armSubImm
  | .add => .armAddImm
  | .adc => .armAdcImm
  | .orr => .armOrrImm

/-- The LSL form. -/
def ArmAlu.lsl : ArmAlu → ArmCond → Bool → BitVec 4 → BitVec 4 → BitVec 5 → BitVec 4 → Instr
  | .sub => .armSubLsl
  | .add => .armAddLsl
  | .adc => .armAdcLsl
  | .orr => .armOrrLsl

/-- The LSR form. -/
def ArmAlu.lsr : ArmAlu → ArmCond → Bool → BitVec 4 → BitVec 4 → BitVec 5 → BitVec 4 → Instr
  | .sub => .armSubLsr
  | .add => .armAddLsr
  | .adc => .armAdcLsr
  | .orr => .armOrrLsr

/-- Bits 27:26 = 00: data processing (R166, R167). -/
def decodeArmData (c : ArmCond) (w : Word) : Decoded Instr :=
  if fld w 21 4 = 13#4 then
    if fld w 16 4 ≠ 0#4 then .error .armMovRn
    else if bitAt w 25 then .ok (.armMovImm c (bitAt w 20) (fld w 12 4) (fld w 8 4) (fld w 0 8))
    else if fld w 4 3 = 0#3 then .ok (.armMovLsl c (bitAt w 20) (fld w 12 4) (fld w 7 5) (fld w 0 4))
    else if fld w 4 3 = 2#3 then .ok (.armMovLsr c (bitAt w 20) (fld w 12 4) (fld w 7 5) (fld w 0 4))
    else .error .notListed
  else
    match ArmAlu.ofOpcode (fld w 21 4) with
    | none => .error .notListed
    | some a =>
      if bitAt w 25 then
        .ok (a.imm c (bitAt w 20) (fld w 16 4) (fld w 12 4) (fld w 8 4) (fld w 0 8))
      else if fld w 4 3 = 0#3 then
        .ok (a.lsl c (bitAt w 20) (fld w 16 4) (fld w 12 4) (fld w 7 5) (fld w 0 4))
      else if fld w 4 3 = 2#3 then
        .ok (a.lsr c (bitAt w 20) (fld w 16 4) (fld w 12 4) (fld w 7 5) (fld w 0 4))
      else .error .notListed

/-- The addressing mode of bits P and W (R168). -/
def ArmIndex.ofBits (p w : Bool) : Option ArmIndex :=
  if p then (if w then some .pre else some .offset) else (if w then none else some .post)

/-- Bit P of an addressing mode. -/
def ArmIndex.p : ArmIndex → Bool
  | .offset | .pre => true
  | .post => false

/-- Bit W of an addressing mode. -/
def ArmIndex.w : ArmIndex → Bool
  | .pre => true
  | .offset | .post => false

/-- Bits 27:26 = 01: LDR (R168). -/
def decodeArmLoad (c : ArmCond) (w : Word) : Decoded Instr :=
  if bitAt w 22 ∨ ¬ bitAt w 20 then .error .notListed
  else
    match ArmIndex.ofBits (bitAt w 24) (bitAt w 21) with
    | none => .error .armLdrUserMode
    | some m =>
      if ¬ bitAt w 25 then .ok (.armLdrImm c m (bitAt w 23) (fld w 16 4) (fld w 12 4) (fld w 0 12))
      else if fld w 4 3 ≠ 0#3 then .error .notListed
      else if fld w 0 4 = 15#4 then .error .armLdrRmPc
      else .ok (.armLdrReg c m (bitAt w 23) (fld w 16 4) (fld w 12 4) (fld w 7 5) (fld w 0 4))

/-- An ARM instruction from its word. -/
def decodeArm (w : Word) : Decoded Instr :=
  match ArmCond.ofCode (fld w 28 4) with
  | none => .error .armNever
  | some c =>
    if fld w 4 24 = 0x12FFF1#24 then .ok (.armBx c (fld w 0 4))
    else if fld w 26 2 = 0#2 then decodeArmData c w
    else if fld w 26 2 = 1#2 then decodeArmLoad c w
    else if fld w 25 3 = 5#3 then .ok (if bitAt w 24 then .armBl c (fld w 0 24) else .armB c (fld w 0 24))
    else .error .notListed

/-! ### P3 (spec/30_encoding.md R175 to R183; bit {i} of the pages is bit 31 − i) -/

/-- Primary opcode 31 (R183). -/
def decodePpc31 (w : Word) : Decoded Instr :=
  if fld w 1 9 = 10#9 then
    .ok (.ppcAddc (fld w 21 5) (fld w 16 5) (fld w 11 5) (bitAt w 10) (bitAt w 0))
  else if fld w 1 9 = 202#9 then
    if fld w 11 5 = 0#5 then .ok (.ppcAddze (fld w 21 5) (fld w 16 5) (bitAt w 10) (bitAt w 0))
    else .error .ppcReservedField
  else if fld w 1 10 = 467#10 then
    if bitAt w 0 then .error .ppcReservedField
    else .ok (.ppcMtspr (bitsOf 10 [fd (fld w 11 5), fd (fld w 16 5)]) (fld w 21 5))
  else .error .notListed

/-- A PowerPC instruction from its word. -/
def decodePpc (w : Word) : Decoded Instr :=
  if fld w 26 6 = 14#6 then .ok (.ppcAddi (fld w 21 5) (fld w 16 5) (fld w 0 16))
  else if fld w 26 6 = 16#6 then
    .ok (.ppcBc (fld w 21 5) (fld w 16 5) (fld w 2 14) (bitAt w 1) (bitAt w 0))
  else if fld w 26 6 = 19#6 then
    if fld w 1 10 = 16#10 then
      if fld w 11 5 = 0#5 then .ok (.ppcBclr (fld w 21 5) (fld w 16 5) (bitAt w 0))
      else .error .ppcReservedField
    else .error .notListed
  else if fld w 26 6 = 20#6 then
    .ok (.ppcRlwimi (fld w 16 5) (fld w 21 5) (fld w 11 5) (fld w 6 5) (fld w 1 5) (bitAt w 0))
  else if fld w 26 6 = 21#6 then
    .ok (.ppcRlwinm (fld w 16 5) (fld w 21 5) (fld w 11 5) (fld w 6 5) (fld w 1 5) (bitAt w 0))
  else if fld w 26 6 = 31#6 then decodePpc31 w
  else if fld w 26 6 = 33#6 then .ok (.ppcLwzu (fld w 21 5) (fld w 16 5) (fld w 0 16))
  else .error .notListed

/-! ### P4 (spec/30_encoding.md R185 to R189) -/

/-- The condition of a Bicc code (spec/43_sparc.md R462). -/
def SparcCond.ofCode (c : BitVec 4) : SparcCond :=
  if c = 0 then .n else if c = 1 then .e else if c = 2 then .le else if c = 3 then .l else if c = 4 then .leu
  else if c = 5 then .cs else if c = 6 then .neg else if c = 7 then .vs else if c = 8 then .a else if c = 9 then .ne
  else if c = 10 then .g else if c = 11 then .ge else if c = 12 then .gu else if c = 13 then .cc
  else if c = 14 then .pos else .vc

/-- The code of a Bicc condition. -/
def SparcCond.code : SparcCond → BitVec 4
  | .n => 0 | .e => 1 | .le => 2 | .l => 3 | .leu => 4 | .cs => 5 | .neg => 6 | .vs => 7
  | .a => 8 | .ne => 9 | .g => 10 | .ge => 11 | .gu => 12 | .cc => 13 | .pos => 14 | .vc => 15

/-- `reg_or_imm` of a format 3 word (R187). -/
def sparcOp2Of (w : Word) : SparcOp2 := if bitAt w 13 then .imm (fld w 0 13) else .reg (fld w 0 5)

/-- A SPARC instruction from its word. -/
def decodeSparc (w : Word) : Decoded Instr :=
  if fld w 30 2 = 0#2 then
    if fld w 22 3 = 2#3 then .ok (.sparcBicc (bitAt w 29) (SparcCond.ofCode (fld w 25 4)) (fld w 0 22))
    else if fld w 22 3 = 4#3 then .ok (.sparcSethi (fld w 0 22) (fld w 25 5))
    else .error .notListed
  else if fld w 30 2 = 2#2 then
    if fld w 19 6 = 0x00#6 then .ok (.sparcAdd (fld w 14 5) (sparcOp2Of w) (fld w 25 5))
    else if fld w 19 6 = 0x02#6 then .ok (.sparcOr (fld w 14 5) (sparcOp2Of w) (fld w 25 5))
    else if fld w 19 6 = 0x08#6 then .ok (.sparcAddx (fld w 14 5) (sparcOp2Of w) (fld w 25 5))
    else if fld w 19 6 = 0x10#6 then .ok (.sparcAddcc (fld w 14 5) (sparcOp2Of w) (fld w 25 5))
    else if fld w 19 6 = 0x14#6 then .ok (.sparcSubcc (fld w 14 5) (sparcOp2Of w) (fld w 25 5))
    else if fld w 19 6 = 0x25#6 then .ok (.sparcSll (fld w 14 5) (sparcOp2Of w) (fld w 25 5))
    else if fld w 19 6 = 0x26#6 then .ok (.sparcSrl (fld w 14 5) (sparcOp2Of w) (fld w 25 5))
    else if fld w 19 6 = 0x38#6 then .ok (.sparcJmpl (fld w 14 5) (sparcOp2Of w) (fld w 25 5))
    else .error .notListed
  else if fld w 30 2 = 3#2 then
    if fld w 19 6 = 0x00#6 then
      if ¬ bitAt w 13 ∧ fld w 5 8 ≠ 0#8 then .error .sparcLdAsi
      else .ok (.sparcLd (fld w 14 5) (sparcOp2Of w) (fld w 25 5))
    else .error .notListed
  else .error .notListed

/-! ### P5 (spec/30_encoding.md R195 to R198) -/

/-- Opcode SPECIAL (R196, R197, R198). That a JR word of function 001000 with a nonzero hint or reserved field is refused
in Release 6 too is the model's choice (notes/assumptions/51.md). -/
def decodeMipsSpecial (w : Word) : Decoded Instr :=
  if fld w 0 6 = 0x21#6 then
    if fld w 6 5 = 0#5 then .ok (.mipsAddu (fld w 11 5) (fld w 21 5) (fld w 16 5)) else .error .mipsReservedField
  else if fld w 0 6 = 0x2B#6 then
    if fld w 6 5 = 0#5 then .ok (.mipsSltu (fld w 11 5) (fld w 21 5) (fld w 16 5)) else .error .mipsReservedField
  else if fld w 0 6 = 0x08#6 then
    if fld w 11 10 ≠ 0#10 then .error .mipsReservedField
    else if fld w 6 5 ≠ 0#5 then .error .mipsJrHint
    else .ok (.mipsJrPre (fld w 21 5))
  else if fld w 0 6 = 0x09#6 then
    if fld w 11 5 ≠ 0#5 then .error .notListed
    else if fld w 16 5 ≠ 0#5 then .error .mipsReservedField
    else if fld w 6 5 ≠ 0#5 then .error .mipsJrHint
    else .ok (.mipsJrR6 (fld w 21 5))
  else .error .notListed

/-- A MIPS32 instruction from its word. -/
def decodeMips (w : Word) : Decoded Instr :=
  if fld w 26 6 = 0x00#6 then decodeMipsSpecial w
  else if fld w 26 6 = 0x05#6 then .ok (.mipsBne (fld w 21 5) (fld w 16 5) (fld w 0 16))
  else if fld w 26 6 = 0x09#6 then .ok (.mipsAddiu (fld w 16 5) (fld w 21 5) (fld w 0 16))
  else if fld w 26 6 = 0x0D#6 then .ok (.mipsOri (fld w 16 5) (fld w 21 5) (fld w 0 16))
  else if fld w 26 6 = 0x23#6 then .ok (.mipsLw (fld w 16 5) (fld w 0 16) (fld w 21 5))
  else if fld w 26 6 = 0x1F#6 then
    if fld w 0 6 = 0x00#6 then .ok (.mipsExt (fld w 16 5) (fld w 21 5) (fld w 11 5) (fld w 6 5))
    else if fld w 0 6 = 0x04#6 then .ok (.mipsIns (fld w 16 5) (fld w 21 5) (fld w 11 5) (fld w 6 5))
    else .error .notListed
  else .error .notListed

/-! ### P6 (spec/30_encoding.md R220 to R228) -/

/-- The S-type immediate (R221, R222). -/
def rvImmS (w : Word) : BitVec 12 := bitsOf 12 [fd (fld w 25 7), fd (fld w 7 5)]

/-- Bits 12:1 of the B-type offset: imm[12|10:5] in 31:25 and imm[4:1|11] in 11:7 (R221, R222). -/
def rvImmB (w : Word) : BitVec 12 := bitsOf 12 [fd (fld w 31 1), fd (fld w 7 1), fd (fld w 25 6), fd (fld w 8 4)]

/-- Opcode 0000011: loads (R223). -/
def decodeRvLoad (w : Word) : Decoded Instr :=
  if fld w 12 3 = 1#3 then .ok (.rvLh (fld w 7 5) (fld w 20 12) (fld w 15 5))
  else if fld w 12 3 = 2#3 then .ok (.rvLw (fld w 7 5) (fld w 20 12) (fld w 15 5))
  else if fld w 12 3 = 3#3 then .ok (.rvLd (fld w 7 5) (fld w 20 12) (fld w 15 5))
  else if fld w 12 3 = 5#3 then .ok (.rvLhu (fld w 7 5) (fld w 20 12) (fld w 15 5))
  else if fld w 12 3 = 6#3 then .ok (.rvLwu (fld w 7 5) (fld w 20 12) (fld w 15 5))
  else .error .notListed

/-- Opcode 0010011: register-immediate, and `not` (R223; spec/45_riscv.md R654). -/
def decodeRvImm (w : Word) : Decoded Instr :=
  if fld w 12 3 = 0#3 then .ok (.rvAddi (fld w 7 5) (fld w 15 5) (fld w 20 12))
  else if fld w 12 3 = 1#3 then
    if fld w 26 6 = 0#6 then .ok (.rvSlli (fld w 7 5) (fld w 15 5) (fld w 20 6)) else .error .notListed
  else if fld w 12 3 = 2#3 then .ok (.rvSlti (fld w 7 5) (fld w 15 5) (fld w 20 12))
  else if fld w 12 3 = 3#3 then .ok (.rvSltiu (fld w 7 5) (fld w 15 5) (fld w 20 12))
  else if fld w 12 3 = 4#3 then
    if fld w 20 12 = 0xFFF#12 then .ok (.rvNot (fld w 7 5) (fld w 15 5)) else .error .notListed
  else if fld w 12 3 = 5#3 then
    if fld w 26 6 = 0#6 then .ok (.rvSrli (fld w 7 5) (fld w 15 5) (fld w 20 6)) else .error .notListed
  else if fld w 12 3 = 6#3 then .ok (.rvOri (fld w 7 5) (fld w 15 5) (fld w 20 12))
  else .error .notListed

/-- Opcode 0011011: word register-immediate (R223, R224). -/
def decodeRvImmW (w : Word) : Decoded Instr :=
  if fld w 12 3 = 0#3 then .ok (.rvAddiw (fld w 7 5) (fld w 15 5) (fld w 20 12))
  else if fld w 12 3 = 1#3 then
    if fld w 26 6 = 0#6 then .ok (.rvSlliw (fld w 7 5) (fld w 15 5) (fld w 20 6)) else .error .notListed
  else if fld w 12 3 = 5#3 then
    if fld w 26 6 = 0#6 then .ok (.rvSrliw (fld w 7 5) (fld w 15 5) (fld w 20 6)) else .error .notListed
  else .error .notListed

/-- Opcode 0100011: stores (R223). -/
def decodeRvStore (w : Word) : Decoded Instr :=
  if fld w 12 3 = 0#3 then .ok (.rvSb (fld w 20 5) (rvImmS w) (fld w 15 5))
  else if fld w 12 3 = 1#3 then .ok (.rvSh (fld w 20 5) (rvImmS w) (fld w 15 5))
  else if fld w 12 3 = 2#3 then .ok (.rvSw (fld w 20 5) (rvImmS w) (fld w 15 5))
  else .error .notListed

/-- Opcode 0110011: register-register, and `neg` (R223; spec/45_riscv.md R651). -/
def decodeRvReg (w : Word) : Decoded Instr :=
  if fld w 25 7 = 0#7 then
    if fld w 12 3 = 0#3 then .ok (.rvAdd (fld w 7 5) (fld w 15 5) (fld w 20 5))
    else if fld w 12 3 = 1#3 then .ok (.rvSll (fld w 7 5) (fld w 15 5) (fld w 20 5))
    else if fld w 12 3 = 2#3 then .ok (.rvSlt (fld w 7 5) (fld w 15 5) (fld w 20 5))
    else if fld w 12 3 = 3#3 then .ok (.rvSltu (fld w 7 5) (fld w 15 5) (fld w 20 5))
    else if fld w 12 3 = 5#3 then .ok (.rvSrl (fld w 7 5) (fld w 15 5) (fld w 20 5))
    else if fld w 12 3 = 6#3 then .ok (.rvOr (fld w 7 5) (fld w 15 5) (fld w 20 5))
    else .error .notListed
  else if fld w 25 7 = 0x20#7 ∧ fld w 12 3 = 0#3 ∧ fld w 15 5 = 0#5 then
    .ok (.rvNeg (fld w 7 5) (fld w 20 5))
  else .error .notListed

/-- Opcode 0111011: word register-register, and `negw` (R223; spec/45_riscv.md R652). -/
def decodeRvRegW (w : Word) : Decoded Instr :=
  if fld w 25 7 = 0#7 then
    if fld w 12 3 = 0#3 then .ok (.rvAddw (fld w 7 5) (fld w 15 5) (fld w 20 5))
    else if fld w 12 3 = 1#3 then .ok (.rvSllw (fld w 7 5) (fld w 15 5) (fld w 20 5))
    else .error .notListed
  else if fld w 25 7 = 0x20#7 then
    if fld w 12 3 = 5#3 then .ok (.rvSraw (fld w 7 5) (fld w 15 5) (fld w 20 5))
    else if fld w 12 3 = 0#3 ∧ fld w 15 5 = 0#5 then .ok (.rvNegw (fld w 7 5) (fld w 20 5))
    else .error .notListed
  else if fld w 25 7 = 1#7 then
    if fld w 12 3 = 6#3 then .ok (.rvRemw (fld w 7 5) (fld w 15 5) (fld w 20 5))
    else if fld w 12 3 = 7#3 then .ok (.rvRemuw (fld w 7 5) (fld w 15 5) (fld w 20 5))
    else .error .notListed
  else .error .notListed

/-- Opcode 0101111: the atomics (R228). -/
def decodeRvAmo (w : Word) : Decoded Instr :=
  if fld w 27 5 = 2#5 ∧ fld w 20 5 = 0#5 then
    if fld w 12 3 = 2#3 then .ok (.rvLrW (bitAt w 26) (bitAt w 25) (fld w 7 5) (fld w 15 5))
    else if fld w 12 3 = 3#3 then .ok (.rvLrD (bitAt w 26) (bitAt w 25) (fld w 7 5) (fld w 15 5))
    else .error .notListed
  else if fld w 27 5 = 3#5 ∧ fld w 12 3 = 3#3 then
    .ok (.rvScD (bitAt w 26) (bitAt w 25) (fld w 7 5) (fld w 20 5) (fld w 15 5))
  else if fld w 27 5 = 0#5 ∧ fld w 12 3 = 3#3 then
    .ok (.rvAmoaddD (bitAt w 26) (bitAt w 25) (fld w 7 5) (fld w 20 5) (fld w 15 5))
  else .error .notListed

/-- Opcode 1110011: mret, sret, and the one csrrs pattern of `rdcycle` (R225; spec/45_riscv.md R655). -/
def decodeRvSystem (w : Word) : Decoded Instr :=
  if w = 0x30200073#32 then .ok .rvMret
  else if w = 0x10200073#32 then .ok .rvSret
  else if fld w 12 20 = 0xC0002#20 then .ok (.rvRdcycle (fld w 7 5))
  else .error .notListed

/-- A 32-bit RISC-V instruction from its word. -/
def decodeRv32 (w : Word) : Decoded Instr :=
  if fld w 0 7 = 0x03#7 then decodeRvLoad w
  else if fld w 0 7 = 0x13#7 then decodeRvImm w
  else if fld w 0 7 = 0x1B#7 then decodeRvImmW w
  else if fld w 0 7 = 0x23#7 then decodeRvStore w
  else if fld w 0 7 = 0x2F#7 then decodeRvAmo w
  else if fld w 0 7 = 0x33#7 then decodeRvReg w
  else if fld w 0 7 = 0x37#7 then .ok (.rvLui (fld w 7 5) (fld w 12 20))
  else if fld w 0 7 = 0x3B#7 then decodeRvRegW w
  else if fld w 0 7 = 0x63#7 ∧ fld w 12 3 = 1#3 then .ok (.rvBne (fld w 15 5) (fld w 20 5) (rvImmB w))
  else if w = 0x00008067#32 then .ok .rvRet
  else if fld w 0 7 = 0x73#7 then decodeRvSystem w
  else .error .notListed

/-- imm[9:4] of c.addi16sp (R226). -/
def rvImm16sp (h : Half) : BitVec 6 :=
  bitsOf 6 [fd (fld h 12 1), fd (fld h 3 2), fd (fld h 5 1), fd (fld h 2 1), fd (fld h 6 1)]

/-- uimm[9:2] of c.addi4spn (R226). -/
def rvUimm4spn (h : Half) : BitVec 8 :=
  bitsOf 8 [fd (fld h 7 4), fd (fld h 11 2), fd (fld h 5 1), fd (fld h 6 1)]

/-- A compressed RISC-V instruction from its halfword (R226, R227). -/
def decodeRvC (h : Half) : Decoded Instr :=
  if fld h 0 2 = 0#2 ∧ fld h 13 3 = 0#3 then
    if rvUimm4spn h = 0#8 then .error .rvInvalidCompressed
    else .ok (.rvCAddi4spn (fld h 2 3) (rvUimm4spn h))
  else if fld h 0 2 = 1#2 ∧ fld h 13 3 = 0#3 then
    .ok (.rvCAddi (fld h 7 5) (bitsOf 6 [fd (fld h 12 1), fd (fld h 2 5)]))
  else if fld h 0 2 = 1#2 ∧ fld h 13 3 = 3#3 ∧ fld h 7 5 = 2#5 then
    if rvImm16sp h = 0#6 then .error .rvInvalidCompressed else .ok (.rvCAddi16sp (rvImm16sp h))
  else if fld h 0 2 = 2#2 ∧ fld h 12 4 = 9#4 then
    if fld h 7 5 = 0#5 ∨ fld h 2 5 = 0#5 then .error .rvInvalidCompressed
    else .ok (.rvCAdd (fld h 7 5) (fld h 2 5))
  else .error .notListed

/-- The instruction that `c` is in part `p`; `csD` is the D flag of CS, read by P1 only. -/
def decode (p : Part) (csD : Bool) (c : Code) : Decoded Instr :=
  match p, c with
  | .p1, .bytes l => decodeX86 csD .none l
  | .p2, .word w => decodeArm w
  | .p3, .word w => decodePpc w
  | .p4, .word w => decodeSparc w
  | .p5, .word w => decodeMips w
  | .p6, .word w => decodeRv32 w
  | .p6, .half h => decodeRvC h
  | _, _ => .error .notListed

/-! ### The encoder -/

/-- A 32-bit word from its fields, the most significant first. -/
def word32 (l : List (Nat × Nat)) : Word := bitsOf 32 l

/-- Opcode and number of the `+rb/+rw/+rd` forms (R151). -/
def opReg (base : BitVec 5) (r : BitVec 3) : Byte := bitsOf 8 [fd base, fd r]

/-- The direct opcode of an arithmetic family (R160). -/
def opAlu (d k : BitVec 3) : Byte := bitsOf 8 [fd 0#2, fd d, fd k]

/-- The bytes of a P1 instruction, prefixes included; none for an instruction of another part. -/
def encodeX86 (csD : Bool) : X86Pfx → Instr → List Byte
  | p, .x86OpSize i => 0x66#8 :: encodeX86 csD { p with op := true } i
  | p, .x86AddrSize i => 0x67#8 :: encodeX86 csD { p with addr := true } i
  | p, .x86SegCs i => X86Sreg.cs.override :: encodeX86 csD { p with seg := some .cs } i
  | p, .x86SegSs i => X86Sreg.ss.override :: encodeX86 csD { p with seg := some .ss } i
  | p, .x86SegDs i => X86Sreg.ds.override :: encodeX86 csD { p with seg := some .ds } i
  | p, .x86SegEs i => X86Sreg.es.override :: encodeX86 csD { p with seg := some .es } i
  | p, .x86SegFs i => X86Sreg.fs.override :: encodeX86 csD { p with seg := some .fs } i
  | p, .x86SegGs i => X86Sreg.gs.override :: encodeX86 csD { p with seg := some .gs } i
  | _, .x86Lock => [0xF0#8]
  | _, .x86PushRm rm => 0xFF#8 :: encodeRM 6 rm
  | _, .x86PushReg r => [opReg 0x0A r]
  | _, .x86PushImm8 v => [0x6A#8, v]
  | p, .x86PushImm v => 0x68#8 :: bytesBySize (csD != p.op) v
  | _, .x86PushCs => [0x0E#8]
  | _, .x86PushSs => [0x16#8]
  | _, .x86PushDs => [0x1E#8]
  | _, .x86PushEs => [0x06#8]
  | _, .x86PushFs => [0x0F#8, 0xA0#8]
  | _, .x86PushGs => [0x0F#8, 0xA8#8]
  | _, .x86XorAlImm8 v => [opAlu 6 4, v]
  | p, .x86XorAxImm v => opAlu 6 5 :: bytesBySize (csD != p.op) v
  | _, .x86XorRm8Imm8 rm v => 0x80#8 :: (encodeRM 6 rm ++ [v])
  | p, .x86XorRmImm rm v => 0x81#8 :: (encodeRM 6 rm ++ bytesBySize (csD != p.op) v)
  | _, .x86XorRmImm8 rm v => 0x83#8 :: (encodeRM 6 rm ++ [v])
  | _, .x86XorRm8R8 rm r => opAlu 6 0 :: encodeRM r rm
  | _, .x86XorRmR rm r => opAlu 6 1 :: encodeRM r rm
  | _, .x86XorR8Rm8 r rm => opAlu 6 2 :: encodeRM r rm
  | _, .x86XorRRm r rm => opAlu 6 3 :: encodeRM r rm
  | _, .x86MovRm8R8 rm r => 0x88#8 :: encodeRM r rm
  | _, .x86MovRmR rm r => 0x89#8 :: encodeRM r rm
  | _, .x86MovR8Rm8 r rm => 0x8A#8 :: encodeRM r rm
  | _, .x86MovRRm r rm => 0x8B#8 :: encodeRM r rm
  | _, .x86MovRmSreg rm sr => 0x8C#8 :: encodeRM sr rm
  | _, .x86MovSregRm sr rm => 0x8E#8 :: encodeRM sr rm
  | p, .x86MovAlMoffs v => 0xA0#8 :: bytesBySize (csD != p.addr) v
  | p, .x86MovAxMoffs v => 0xA1#8 :: bytesBySize (csD != p.addr) v
  | p, .x86MovMoffsAl v => 0xA2#8 :: bytesBySize (csD != p.addr) v
  | p, .x86MovMoffsAx v => 0xA3#8 :: bytesBySize (csD != p.addr) v
  | _, .x86MovR8Imm8 r v => [opReg 0x16 r, v]
  | p, .x86MovRImm r v => opReg 0x17 r :: bytesBySize (csD != p.op) v
  | _, .x86MovRm8Imm8 rm v => 0xC6#8 :: (encodeRM 0 rm ++ [v])
  | p, .x86MovRmImm rm v => 0xC7#8 :: (encodeRM 0 rm ++ bytesBySize (csD != p.op) v)
  | _, .x86AddAlImm8 v => [opAlu 0 4, v]
  | p, .x86AddAxImm v => opAlu 0 5 :: bytesBySize (csD != p.op) v
  | _, .x86AddRm8Imm8 rm v => 0x80#8 :: (encodeRM 0 rm ++ [v])
  | p, .x86AddRmImm rm v => 0x81#8 :: (encodeRM 0 rm ++ bytesBySize (csD != p.op) v)
  | _, .x86AddRmImm8 rm v => 0x83#8 :: (encodeRM 0 rm ++ [v])
  | _, .x86AddRm8R8 rm r => opAlu 0 0 :: encodeRM r rm
  | _, .x86AddRmR rm r => opAlu 0 1 :: encodeRM r rm
  | _, .x86AddR8Rm8 r rm => opAlu 0 2 :: encodeRM r rm
  | _, .x86AddRRm r rm => opAlu 0 3 :: encodeRM r rm
  | _, .x86AdcAlImm8 v => [opAlu 2 4, v]
  | p, .x86AdcAxImm v => opAlu 2 5 :: bytesBySize (csD != p.op) v
  | _, .x86AdcRm8Imm8 rm v => 0x80#8 :: (encodeRM 2 rm ++ [v])
  | p, .x86AdcRmImm rm v => 0x81#8 :: (encodeRM 2 rm ++ bytesBySize (csD != p.op) v)
  | _, .x86AdcRmImm8 rm v => 0x83#8 :: (encodeRM 2 rm ++ [v])
  | _, .x86AdcRm8R8 rm r => opAlu 2 0 :: encodeRM r rm
  | _, .x86AdcRmR rm r => opAlu 2 1 :: encodeRM r rm
  | _, .x86AdcR8Rm8 r rm => opAlu 2 2 :: encodeRM r rm
  | _, .x86AdcRRm r rm => opAlu 2 3 :: encodeRM r rm
  | _, .x86Loop v => [0xE2#8, v]
  | _, .x86Loope v => [0xE1#8, v]
  | _, .x86Loopne v => [0xE0#8, v]
  | _, .x86ShrdImm rm r v => 0x0F#8 :: 0xAC#8 :: (encodeRM r rm ++ [v])
  | _, .x86ShrdCl rm r => 0x0F#8 :: 0xAD#8 :: encodeRM r rm
  | _, .x86XchgAxR r => [opReg 0x12 r]
  | _, .x86XchgRm8R8 rm r => 0x86#8 :: encodeRM r rm
  | _, .x86XchgRmR rm r => 0x87#8 :: encodeRM r rm
  | _, .x86PopMem m => 0x8F#8 :: encodeMem 0 m
  | _, .x86PopReg r => [opReg 0x0B r]
  | _, .x86PopDs => [0x1F#8]
  | _, .x86PopEs => [0x07#8]
  | _, .x86PopFs => [0x0F#8, 0xA1#8]
  | _, .x86PopGs => [0x0F#8, 0xA9#8]
  | _, .x86PopSs => [0x17#8]
  | _, .x86Ret => [0xC3#8]
  | _, .x86RetImm v => 0xC2#8 :: bytes16 v
  | _, .x86RetFar => [0xCB#8]
  | _, .x86RetFarImm v => 0xCA#8 :: bytes16 v
  | _, _ => []

/-- Immediate data-processing word (R166, R167). -/
def armImmWord (c : ArmCond) (op : BitVec 4) (s : Bool) (rn rd rot : BitVec 4) (imm : BitVec 8) : Word :=
  word32 [fd c.code, fd 1#3, fd op, fdb s, fd rn, fd rd, fd rot, fd imm]

/-- Register data-processing word; `ty` is bits 6:4 (R166, R167). -/
def armRegWord (c : ArmCond) (op : BitVec 4) (s : Bool) (rn rd : BitVec 4) (sh : BitVec 5) (ty : BitVec 3)
    (rm : BitVec 4) : Word :=
  word32 [fd c.code, fd 0#3, fd op, fdb s, fd rn, fd rd, fd sh, fd ty, fd rm]

/-- XO-form word of P3 (R177). -/
def ppcXoWord (rD rA rB : BitVec 5) (oe : Bool) (xo : BitVec 9) (rc : Bool) : Word :=
  word32 [fd 31#6, fd rD, fd rA, fd rB, fdb oe, fd xo, fdb rc]

/-- M-form word of P3 (R181). -/
def ppcMWord (op : BitVec 6) (rS rA sh mb me : BitVec 5) (rc : Bool) : Word :=
  word32 [fd op, fd rS, fd rA, fd sh, fd mb, fd me, fdb rc]

/-- XFX-form word of mtspr: the halves of the SPR number are swapped (R178). -/
def ppcMtsprWord (n : BitVec 10) (rS : BitVec 5) : Word :=
  word32 [fd 31#6, fd rS, fd (fld n 0 5), fd (fld n 5 5), fd 467#10, fdb false]

/-- XL-form word of bclr (R180). -/
def ppcBclrWord (bo bi : BitVec 5) (lk : Bool) : Word :=
  word32 [fd 19#6, fd bo, fd bi, fd 0#5, fd 16#10, fdb lk]

/-- Format 3 word of P4 (R187). -/
def sparcF3 (op : BitVec 2) (rd : BitVec 5) (op3 : BitVec 6) (rs1 : BitVec 5) : SparcOp2 → Word
  | .reg rs2 => word32 [fd op, fd rd, fd op3, fd rs1, fdb false, fd 0#8, fd rs2]
  | .imm v => word32 [fd op, fd rd, fd op3, fd rs1, fdb true, fd v]

/-- Immediate-format word of P5 (R195). -/
def mipsIWord (op : BitVec 6) (rs rt : BitVec 5) (imm : BitVec 16) : Word := word32 [fd op, fd rs, fd rt, fd imm]

/-- Register-format word of P5 (R195). -/
def mipsRWord (op : BitVec 6) (rs rt rd sa : BitVec 5) (fn : BitVec 6) : Word :=
  word32 [fd op, fd rs, fd rt, fd rd, fd sa, fd fn]

/-- I-type word of P6 (R221). -/
def rvIWord (op : BitVec 7) (f3 : BitVec 3) (rd rs1 : BitVec 5) (imm : BitVec 12) : Word :=
  word32 [fd imm, fd rs1, fd f3, fd rd, fd op]

/-- Shift-immediate word of P6 (R224). -/
def rvShWord (op : BitVec 7) (f3 : BitVec 3) (rd rs1 : BitVec 5) (shamt : BitVec 6) : Word :=
  word32 [fd 0#6, fd shamt, fd rs1, fd f3, fd rd, fd op]

/-- R-type word of P6 (R221). -/
def rvRWord (op : BitVec 7) (f3 : BitVec 3) (f7 : BitVec 7) (rd rs1 rs2 : BitVec 5) : Word :=
  word32 [fd f7, fd rs2, fd rs1, fd f3, fd rd, fd op]

/-- S-type word of P6 (R221). -/
def rvSWord (f3 : BitVec 3) (rs2 rs1 : BitVec 5) (imm : BitVec 12) : Word :=
  word32 [fd (fld imm 5 7), fd rs2, fd rs1, fd f3, fd (fld imm 0 5), fd 0x23#7]

/-- bne's word; `off` is offset[12:1] (R221). -/
def rvBneWord (rs1 rs2 : BitVec 5) (off : BitVec 12) : Word :=
  word32 [fd (fld off 11 1), fd (fld off 4 6), fd rs2, fd rs1, fd 1#3, fd (fld off 0 4), fd (fld off 10 1), fd 0x63#7]

/-- AMO-format word of P6 (R228). -/
def rvAmoWord (f5 : BitVec 5) (aq rl : Bool) (rs2 rs1 : BitVec 5) (f3 : BitVec 3) (rd : BitVec 5) : Word :=
  word32 [fd f5, fdb aq, fdb rl, fd rs2, fd rs1, fd f3, fd rd, fd 0x2F#7]

/-- c.add (R226). -/
def rvCAddHalf (rd rs2 : BitVec 5) : Half := bitsOf 16 [fd 9#4, fd rd, fd rs2, fd 2#2]

/-- c.addi (R226). -/
def rvCAddiHalf (rd : BitVec 5) (imm : BitVec 6) : Half :=
  bitsOf 16 [fd 0#3, fd (fld imm 5 1), fd rd, fd (fld imm 0 5), fd 1#2]

/-- c.addi16sp; `imm` is imm[9:4] (R226). -/
def rvCAddi16spHalf (imm : BitVec 6) : Half :=
  bitsOf 16 [fd 3#3, fd (fld imm 5 1), fd 2#5, fd (fld imm 0 1), fd (fld imm 2 1), fd (fld imm 3 2), fd (fld imm 1 1),
    fd 1#2]

/-- c.addi4spn; `uimm` is uimm[9:2] (R226). -/
def rvCAddi4spnHalf (rd : BitVec 3) (uimm : BitVec 8) : Half :=
  bitsOf 16 [fd 0#3, fd (fld uimm 2 2), fd (fld uimm 4 4), fd (fld uimm 0 1), fd (fld uimm 1 1), fd rd, fd 0#2]

/-- The words of an instruction. An assembler name writes the words of its core (R240). -/
def encode (csD : Bool) : Instr → Code
  | .armSubImm c s rn rd rot imm => .word (armImmWord c 2 s rn rd rot imm)
  | .armSubLsl c s rn rd sh rm => .word (armRegWord c 2 s rn rd sh 0 rm)
  | .armSubLsr c s rn rd sh rm => .word (armRegWord c 2 s rn rd sh 2 rm)
  | .armAddImm c s rn rd rot imm => .word (armImmWord c 4 s rn rd rot imm)
  | .armAddLsl c s rn rd sh rm => .word (armRegWord c 4 s rn rd sh 0 rm)
  | .armAddLsr c s rn rd sh rm => .word (armRegWord c 4 s rn rd sh 2 rm)
  | .armAdcImm c s rn rd rot imm => .word (armImmWord c 5 s rn rd rot imm)
  | .armAdcLsl c s rn rd sh rm => .word (armRegWord c 5 s rn rd sh 0 rm)
  | .armAdcLsr c s rn rd sh rm => .word (armRegWord c 5 s rn rd sh 2 rm)
  | .armOrrImm c s rn rd rot imm => .word (armImmWord c 12 s rn rd rot imm)
  | .armOrrLsl c s rn rd sh rm => .word (armRegWord c 12 s rn rd sh 0 rm)
  | .armOrrLsr c s rn rd sh rm => .word (armRegWord c 12 s rn rd sh 2 rm)
  | .armMovImm c s rd rot imm => .word (armImmWord c 13 s 0 rd rot imm)
  | .armMovLsl c s rd sh rm => .word (armRegWord c 13 s 0 rd sh 0 rm)
  | .armMovLsr c s rd sh rm => .word (armRegWord c 13 s 0 rd sh 2 rm)
  | .armLdrImm c m up rn rd off => .word (word32 [fd c.code, fd 2#3, fdb m.p, fdb up, fdb false, fdb m.w, fdb true,
    fd rn, fd rd, fd off])
  | .armLdrReg c m up rn rd sh rm => .word (word32 [fd c.code, fd 3#3, fdb m.p, fdb up, fdb false, fdb m.w, fdb true,
    fd rn, fd rd, fd sh, fd 0#3, fd rm])
  | .armB c off => .word (word32 [fd c.code, fd 5#3, fdb false, fd off])
  | .armBl c off => .word (word32 [fd c.code, fd 5#3, fdb true, fd off])
  | .armBx c rm => .word (word32 [fd c.code, fd 0x12FFF1#24, fd rm])
  | .ppcAddi rD rA v => .word (word32 [fd 14#6, fd rD, fd rA, fd v])
  | .ppcLi rD v => .word (word32 [fd 14#6, fd rD, fd 0#5, fd v])
  | .ppcBc bo bi bd aa lk => .word (word32 [fd 16#6, fd bo, fd bi, fd bd, fdb aa, fdb lk])
  | .ppcBclr bo bi lk => .word (ppcBclrWord bo bi lk)
  | .ppcBlr => .word (ppcBclrWord 20 0 false)
  | .ppcRlwimi rA rS sh mb me rc => .word (ppcMWord 20 rS rA sh mb me rc)
  | .ppcRlwinm rA rS sh mb me rc => .word (ppcMWord 21 rS rA sh mb me rc)
  | .ppcAddc rD rA rB oe rc => .word (ppcXoWord rD rA rB oe 10 rc)
  | .ppcAddze rD rA oe rc => .word (ppcXoWord rD rA 0 oe 202 rc)
  | .ppcMtspr n rS => .word (ppcMtsprWord n rS)
  | .ppcMtxer rS => .word (ppcMtsprWord 1 rS)
  | .ppcMtlr rS => .word (ppcMtsprWord 8 rS)
  | .ppcMtctr rS => .word (ppcMtsprWord 9 rS)
  | .ppcLwzu rD rA d => .word (word32 [fd 33#6, fd rD, fd rA, fd d])
  | .sparcBicc a c disp => .word (word32 [fd 0#2, fdb a, fd c.code, fd 2#3, fd disp])
  | .sparcSethi imm rd => .word (word32 [fd 0#2, fd rd, fd 4#3, fd imm])
  | .sparcNop => .word (word32 [fd 0#2, fd 0#5, fd 4#3, fd 0#22])
  | .sparcAdd rs1 op2 rd => .word (sparcF3 2 rd 0x00 rs1 op2)
  | .sparcOr rs1 op2 rd => .word (sparcF3 2 rd 0x02 rs1 op2)
  | .sparcAddx rs1 op2 rd => .word (sparcF3 2 rd 0x08 rs1 op2)
  | .sparcAddcc rs1 op2 rd => .word (sparcF3 2 rd 0x10 rs1 op2)
  | .sparcSubcc rs1 op2 rd => .word (sparcF3 2 rd 0x14 rs1 op2)
  | .sparcSll rs1 op2 rd => .word (sparcF3 2 rd 0x25 rs1 op2)
  | .sparcSrl rs1 op2 rd => .word (sparcF3 2 rd 0x26 rs1 op2)
  | .sparcJmpl rs1 op2 rd => .word (sparcF3 2 rd 0x38 rs1 op2)
  | .sparcLd rs1 op2 rd => .word (sparcF3 3 rd 0x00 rs1 op2)
  | .sparcCmp rs1 op2 => .word (sparcF3 2 0 0x14 rs1 op2)
  | .sparcJmp rs1 op2 => .word (sparcF3 2 0 0x38 rs1 op2)
  | .sparcCall rs1 op2 => .word (sparcF3 2 15 0x38 rs1 op2)
  | .sparcRet => .word (sparcF3 2 0 0x38 31 (.imm 8))
  | .sparcRetl => .word (sparcF3 2 0 0x38 15 (.imm 8))
  | .sparcMov op2 rd => .word (sparcF3 2 rd 0x02 0 op2)
  | .mipsAddiu rt rs imm => .word (mipsIWord 0x09 rs rt imm)
  | .mipsOri rt rs imm => .word (mipsIWord 0x0D rs rt imm)
  | .mipsLw rt off base => .word (mipsIWord 0x23 base rt off)
  | .mipsBne rs rt off => .word (mipsIWord 0x05 rs rt off)
  | .mipsAddu rd rs rt => .word (mipsRWord 0 rs rt rd 0 0x21)
  | .mipsSltu rd rs rt => .word (mipsRWord 0 rs rt rd 0 0x2B)
  | .mipsJrPre rs => .word (mipsRWord 0 rs 0 0 0 0x08)
  | .mipsJrR6 rs => .word (mipsRWord 0 rs 0 0 0 0x09)
  | .mipsExt rt rs msbd lsb => .word (mipsRWord 0x1F rs rt msbd lsb 0x00)
  | .mipsIns rt rs msb lsb => .word (mipsRWord 0x1F rs rt msb lsb 0x04)
  | .mipsMove rd rs => .word (mipsRWord 0 rs 0 rd 0 0x21)
  | .mipsLiAddiu rt imm => .word (mipsIWord 0x09 0 rt imm)
  | .mipsLiOri rt imm => .word (mipsIWord 0x0D 0 rt imm)
  | .rvLh rd off rs1 => .word (rvIWord 0x03 1 rd rs1 off)
  | .rvLw rd off rs1 => .word (rvIWord 0x03 2 rd rs1 off)
  | .rvLd rd off rs1 => .word (rvIWord 0x03 3 rd rs1 off)
  | .rvLhu rd off rs1 => .word (rvIWord 0x03 5 rd rs1 off)
  | .rvLwu rd off rs1 => .word (rvIWord 0x03 6 rd rs1 off)
  | .rvAddi rd rs1 imm => .word (rvIWord 0x13 0 rd rs1 imm)
  | .rvSlti rd rs1 imm => .word (rvIWord 0x13 2 rd rs1 imm)
  | .rvSltiu rd rs1 imm => .word (rvIWord 0x13 3 rd rs1 imm)
  | .rvOri rd rs1 imm => .word (rvIWord 0x13 6 rd rs1 imm)
  | .rvAddiw rd rs1 imm => .word (rvIWord 0x1B 0 rd rs1 imm)
  | .rvSlli rd rs1 shamt => .word (rvShWord 0x13 1 rd rs1 shamt)
  | .rvSrli rd rs1 shamt => .word (rvShWord 0x13 5 rd rs1 shamt)
  | .rvSlliw rd rs1 shamt => .word (rvShWord 0x1B 1 rd rs1 shamt)
  | .rvSrliw rd rs1 shamt => .word (rvShWord 0x1B 5 rd rs1 shamt)
  | .rvSb rs2 off rs1 => .word (rvSWord 0 rs2 rs1 off)
  | .rvSh rs2 off rs1 => .word (rvSWord 1 rs2 rs1 off)
  | .rvSw rs2 off rs1 => .word (rvSWord 2 rs2 rs1 off)
  | .rvAdd rd rs1 rs2 => .word (rvRWord 0x33 0 0 rd rs1 rs2)
  | .rvSll rd rs1 rs2 => .word (rvRWord 0x33 1 0 rd rs1 rs2)
  | .rvSlt rd rs1 rs2 => .word (rvRWord 0x33 2 0 rd rs1 rs2)
  | .rvSltu rd rs1 rs2 => .word (rvRWord 0x33 3 0 rd rs1 rs2)
  | .rvSrl rd rs1 rs2 => .word (rvRWord 0x33 5 0 rd rs1 rs2)
  | .rvOr rd rs1 rs2 => .word (rvRWord 0x33 6 0 rd rs1 rs2)
  | .rvAddw rd rs1 rs2 => .word (rvRWord 0x3B 0 0 rd rs1 rs2)
  | .rvSllw rd rs1 rs2 => .word (rvRWord 0x3B 1 0 rd rs1 rs2)
  | .rvSraw rd rs1 rs2 => .word (rvRWord 0x3B 5 0x20 rd rs1 rs2)
  | .rvRemw rd rs1 rs2 => .word (rvRWord 0x3B 6 1 rd rs1 rs2)
  | .rvRemuw rd rs1 rs2 => .word (rvRWord 0x3B 7 1 rd rs1 rs2)
  | .rvLui rd imm => .word (word32 [fd imm, fd rd, fd 0x37#7])
  | .rvBne rs1 rs2 off => .word (rvBneWord rs1 rs2 off)
  | .rvLrW aq rl rd rs1 => .word (rvAmoWord 2 aq rl 0 rs1 2 rd)
  | .rvLrD aq rl rd rs1 => .word (rvAmoWord 2 aq rl 0 rs1 3 rd)
  | .rvScD aq rl rd rs2 rs1 => .word (rvAmoWord 3 aq rl rs2 rs1 3 rd)
  | .rvAmoaddD aq rl rd rs2 rs1 => .word (rvAmoWord 0 aq rl rs2 rs1 3 rd)
  | .rvMret => .word (0x30200073#32)
  | .rvSret => .word (0x10200073#32)
  | .rvNeg rd rs2 => .word (rvRWord 0x33 0 0x20 rd 0 rs2)
  | .rvNegw rd rs2 => .word (rvRWord 0x3B 0 0x20 rd 0 rs2)
  | .rvNot rd rs1 => .word (rvIWord 0x13 4 rd rs1 0xFFF)
  | .rvRdcycle rd => .word (rvIWord 0x73 2 rd 0 0xC00)
  | .rvRet => .word (0x00008067#32)
  | .rvNop => .word (rvIWord 0x13 0 0 0 0)
  | .rvBnez rs1 off => .word (rvBneWord rs1 0 off)
  | .rvLi rd imm => .word (rvIWord 0x13 0 rd 0 imm)
  | .rvCAdd rd rs2 => .half (rvCAddHalf rd rs2)
  | .rvCAddi rd imm => .half (rvCAddiHalf rd imm)
  | .rvCAddi16sp imm => .half (rvCAddi16spHalf imm)
  | .rvCAddi4spn rd uimm => .half (rvCAddi4spnHalf rd uimm)
  | i => .bytes (encodeX86 csD .none i)

/-! ### Words of the opcode table

spec/opcode_table.json numbers words without naming the part, so these two definitions guess it
(notes/assumptions/36.md): the words of two parts can be the same bits. -/

/-- A P1 instruction's bytes from table bits: the table writes `0F xx` with 0F in bits 15:8. Zeros follow. -/
def tableBytes (nbits w : Nat) : List Byte :=
  let b (i : Nat) : Byte := BitVec.ofNat 8 (w / 2 ^ (8 * i))
  let l : List Byte := if nbits ≤ 8 then [b 0] else if nbits ≤ 16 then [b 1, b 0] else [b 0, b 1, b 2, b 3]
  l ++ List.replicate 14 0

/-- What `d` holds, if it is an instruction. -/
def Decoded.get? (d : Decoded α) : Option α :=
  match d with
  | .ok a => some a
  | .error _ => none

/-- The part, the code and the instruction of one 32-bit table word in a given part, if it decodes there. -/
def tableTry (p : Part) (c : Code) : Option (Part × Code × Instr) :=
  (Decoded.get? (decode p true c)).map fun i => (p, c, i)

/-- The first part, in an order that keeps every row's own match word apart where the table does, that decodes the
bits. -/
def tableDecode (nbits w : Nat) : Option (Part × Code × Instr) :=
  let bytes : Code := .bytes (tableBytes nbits w)
  let word : Code := .word (BitVec.ofNat 32 w)
  if nbits ≤ 8 then tableTry .p1 bytes
  else if nbits ≤ 16 then
    (if w / 256 = 0x0F then tableTry .p1 bytes else none) <|> tableTry .p6 (.half (BitVec.ofNat 16 w))
  else
    (if w % 4 = 3 then tableTry .p6 word else none) <|> tableTry .p3 word <|> tableTry .p5 word
      <|> (if w / 2 ^ 28 < 8 ∨ w / 2 ^ 28 = 14 then tableTry .p2 word <|> tableTry .p4 word
           else tableTry .p4 word <|> tableTry .p2 word)
      <|> tableTry .p1 bytes

/-- The instruction that the decoder reads from an instruction whose bits are `w`, numbered as spec/opcode_table.json
numbers them, the bits above `nbits` zero. -/
def decodeTableWord (nbits w : Nat) : Option Instr := (tableDecode nbits w).map fun t => t.2.2

end Sys2Proof
end

