-- ==== Sys2Proof/Machine/State.lean ====
section
/-! DEFINITION. The state of the machine as plain data: the six parts side by side (spec/00_scope.md R1: they share
nothing) and which of them runs; memory as one canonical list of cells; the reasons a step stops; the reset state. -/

namespace Sys2Proof.Machine

/-! ### Memory -/

/-- A part's memory (spec/20_memory.md R100): the cells that differ from what an unlisted address reads as, addresses
strictly rising. -/
abbrev Memory := List Host.Cell

/-- What an unlisted address reads as: zero. DESIGN CHOICE (notes/assumptions/2.md): unsafe, the spec gives no byte of
memory a value before something writes it (spec/70_reset_and_hazards.md R741). -/
def Memory.unlisted : Byte := 0#8

/-- The canonical form over an address space of `top` bytes: addresses strictly rising and below `top`, and no listed
byte equal to what an unlisted address reads as. -/
abbrev Memory.wf (top : Nat) (m : Memory) : Prop :=
  m.Pairwise (fun c d => c.1 < d.1) ∧ ∀ c ∈ m, c.1 < top ∧ c.2 ≠ Memory.unlisted

/-- Addresses the running program has stored to since the start of the run, strictly rising
(spec/20_memory.md R127). -/
abbrev StoredSet := List Nat

/-- The canonical form of a set of stored addresses. -/
abbrev StoredSet.wf (l : StoredSet) : Prop := l.Pairwise (· < ·)

/-! ### P1 (spec/10_state.md R20 to R30) -/

/-- A segment register (R23): the selector, whether it was loaded as null, and the hidden part. -/
structure X86Seg where
  sel : Half
  null : Bool
  desc : X86Descriptor
  deriving DecidableEq, Repr

/-- The six segment registers (R23). -/
structure X86Segs where
  es : X86Seg
  cs : X86Seg
  ss : X86Seg
  ds : X86Seg
  fs : X86Seg
  gs : X86Seg
  deriving DecidableEq, Repr

/-- The six status flags (R25), kept as booleans as R25 allows. -/
structure X86Flags where
  cf : Bool
  pf : Bool
  af : Bool
  zf : Bool
  sf : Bool
  ovf : Bool
  deriving DecidableEq, Repr

/-- The IA-32 machine. -/
structure X86State where
  /-- EAX, ECX, EDX, EBX, ESP, EBP, ESI, EDI (R20). -/
  gpr : RegFile 3 32
  /-- ES, CS, SS, DS, FS, GS (R23). -/
  segs : X86Segs
  /-- Between steps, the offset in CS of the next instruction to execute (R24). -/
  eip : Word
  /-- CF, PF, AF, ZF, SF, OF (R25). -/
  flags : X86Flags
  /-- Protection enable (R26). -/
  pe : Bool
  /-- Virtual-8086 mode flag (R26). -/
  vm : Bool
  /-- I/O privilege level, named only (R26). That it has two bits is the model's choice (notes/assumptions/43.md). -/
  iopl : BitVec 2
  /-- Current privilege level (R26). -/
  cpl : BitVec 2
  /-- Alignment checking is enabled (R26). -/
  alignCheck : Bool
  /-- Interrupt enable, read by no instruction in scope (R26). -/
  intEnable : Bool
  /-- `inhibit_next` (R29). -/
  inhibitNext : Bool
  /-- `shutdown` (R30). -/
  shutdown : Bool
  /-- The MODEL's own: prefixes of the instruction in hand; none between steps (notes/assumptions/19.md). -/
  pfx : X86Pfx
  mem : Memory
  /-- The MODEL's own: addresses stored to (spec/20_memory.md R127). -/
  stored : StoredSet
  params : X86Params
  /-- The MODEL's own: how many free values have been drawn. -/
  draws : Nat
  deriving DecidableEq, Repr

/-- What X86_SEG may depend on in the state (spec/20_memory.md R104): the mode bits, the privilege levels, the segment
registers, and memory, which holds whatever tables there are. -/
structure X86View where
  pe : Bool
  vm : Bool
  iopl : BitVec 2
  cpl : BitVec 2
  segs : X86Segs
  mem : Memory
  deriving DecidableEq, Repr

end Sys2Proof.Machine

namespace Sys2Proof.Config

open Sys2Proof.Machine

/-- The linear address of instance `k` of X86_SEG (spec/20_memory.md R104; notes/assumptions/14.md). -/
opaque x86Linear (k : Nat) (x : X86View) (g : X86Sreg) (off : Word) (n : Nat) (kind : X86Access) : Word

/-- The paging of instance `k` of X86_SEG in protected mode (spec/20_memory.md R104, R106). -/
opaque x86Page (k : Nat) (x : X86View) (a : Word) (n : Nat) (kind : X86Access) : X86PageAnswer

/-- The fault that instance `k` of X86_SEG supplies in real-address and virtual-8086 mode, where the pages have no list
(spec/20_memory.md R106; spec/93_implementation_defined.md U48). -/
opaque x86Unlisted (k : Nat) (x : X86View) (g : X86Sreg) (off : Word) (n : Nat) (kind : X86Access) : Option X86Exc

end Sys2Proof.Config

namespace Sys2Proof.Machine

/-! ### P2 (spec/10_state.md R31 to R35) -/

/-- The ARM machine. -/
structure ArmState where
  /-- R0 to R15 of the current mode (R31); R15 holds the address of the instruction to execute. -/
  r : RegFile 4 32
  /-- CPSR: N 31, Z 30, C 29, V 28, T 5, mode 4:0 (R33). -/
  cpsr : Word
  /-- The SPSR of each mode, by mode number; User and System have none (R34). -/
  spsr : RegFile 5 32
  params : ArmParams
  mem : Memory
  /-- The MODEL's own: how many free values have been drawn. -/
  draws : Nat
  deriving DecidableEq, Repr

/-! ### P3 (spec/10_state.md R36 to R42) -/

/-- The PowerPC machine. The user mode bit (R42) is a parameter. -/
structure PpcState where
  /-- GPR0 to GPR31 (R36). -/
  gpr : RegFile 5 32
  /-- The condition register (R37). -/
  cr : Word
  /-- The integer exception register (R38). -/
  xer : Word
  /-- The link register (R39). -/
  lr : Word
  /-- The count register (R40). -/
  ctr : Word
  /-- The current instruction address (R41). -/
  cia : Word
  params : PpcParams
  mem : Memory
  deriving DecidableEq, Repr

/-! ### P4 (spec/10_state.md R43 to R49) -/

/-- The SPARC machine. -/
structure SparcState where
  /-- r[0] to r[31] (R43); r[0] reads as zero (R44). -/
  r : RegFile 5 32
  /-- The instruction being executed (R46). -/
  pc : Word
  /-- The next instruction (R46). -/
  npc : Word
  /-- PSR: n 23, z 22, v 21, c 20, EC 13 (R47); its 32 bits are the model's choice (notes/assumptions/8.md). -/
  psr : Word
  /-- Y, named only (R48). -/
  y : Word
  /-- WIM, named only (R48). -/
  wim : Word
  /-- TBR, named only (R48). -/
  tbr : Word
  /-- `annul_next` (R49). -/
  annulNext : Bool
  /-- `in_delay_slot` (R49). -/
  inDelaySlot : Bool
  params : SparcParams
  mem : Memory
  deriving DecidableEq, Repr

/-! ### P5 (spec/10_state.md R51 to R55) -/

/-- What a branch leaves for the end of its delay slot (R54): the target, and the ISAMode of a JR that writes it. -/
structure MipsPending where
  target : Word
  isa : Option (BitVec 1)
  deriving DecidableEq, Repr

/-- The MIPS32 machine. -/
structure MipsState where
  /-- GPR[0] to GPR[31] (R51); GPR[0] reads as zero (R52). -/
  gpr : RegFile 5 32
  /-- The address of the instruction being executed (R53). -/
  pc : Word
  /-- `delayed_target` with the pending ISAMode (R54). -/
  delayed : Option MipsPending
  /-- ISAMode (R55). -/
  isaMode : BitVec 1
  params : MipsParams
  mem : Memory
  deriving DecidableEq, Repr

/-! ### P6 (spec/10_state.md R56 to R61) -/

/-- The privilege modes (R59). -/
inductive RvPriv
  | user
  | supervisor
  | machine
  deriving DecidableEq, Repr

/-- A load reservation (R61): the reserved address and how many bytes. -/
structure RvReservation where
  addr : Nat
  size : Nat
  deriving DecidableEq, Repr

/-- The RISC-V machine. Registers are held in 64 bits; with XLEN = 32 the upper half of each is zero
(notes/assumptions/35.md). -/
structure RvState where
  /-- x[0] to x[31] (R56); x[0] reads as zero (R57). -/
  x : RegFile 5 64
  /-- The address of the instruction being executed (R58). -/
  pc : DWord
  /-- The privilege mode (R59). -/
  priv : RvPriv
  /-- mstatus.MIE (R60). -/
  mie : Bool
  /-- mstatus.MPIE (R60). -/
  mpie : Bool
  /-- mstatus.MPP (R59, R60). -/
  mpp : BitVec 2
  /-- mepc (R60). -/
  mepc : DWord
  /-- sstatus.SIE (R60). -/
  sie : Bool
  /-- sstatus.SPIE (R60). -/
  spie : Bool
  /-- sstatus.SPP (R59, R60). -/
  spp : BitVec 1
  /-- sepc (R60). -/
  sepc : DWord
  /-- The cycle CSR (R60); its 64 bits are the model's choice (notes/assumptions/35.md). -/
  cycle : DWord
  /-- `reservation` (R61). -/
  reservation : Option RvReservation
  params : RvParams
  mem : Memory
  /-- The MODEL's own: addresses stored to (spec/20_memory.md R127). -/
  stored : StoredSet
  /-- The MODEL's own: how many free values have been drawn. -/
  draws : Nat
  deriving DecidableEq, Repr

/-! ### The whole -/

/-- The compendium's six machines and the one that runs. A step changes the running part's state only. -/
structure State where
  /-- The part that a step executes. -/
  part : Part
  x86 : X86State
  arm : ArmState
  ppc : PpcState
  sparc : SparcState
  mips : MipsState
  rv : RvState
  deriving DecidableEq, Repr

/-! ### Why a step stops -/

/-- The exceptions that the spec names (spec/60_exceptions.md R683, R695, R700, R705, R710, R720), with the address or
error code it gives: the data address for an access to data, nothing otherwise (R682; notes/assumptions/48.md). -/
inductive Exception
  /-- P1: `#UD`, `#GP`, `#SS`, `#NP`, `#PF`, `#AC` (R683). -/
  | x86 (e : X86Exc)
  /-- P2 LDR where ARM_ABORTS holds (spec/41_arm.md R352). -/
  | armDataAbort (addr : Word)
  /-- P2 LDR at an unaligned address with alignment checking enabled (spec/41_arm.md R352). -/
  | armAlignment (addr : Word)
  /-- P2 BX on architecture v4 (spec/41_arm.md R358). -/
  | armUndefined
  /-- P3 lwzu where PPC_DSI holds (spec/20_memory.md R114). -/
  | ppcDsi (addr : Word)
  /-- P3 mtspr: the system illegal instruction error handler (spec/42_powerpc.md R395). -/
  | ppcIllegal
  /-- P3 mtspr: the system supervisor instruction error handler (spec/42_powerpc.md R395). -/
  | ppcSupervisor
  /-- P4 `memory_address_not_aligned` (R705): LD, with its data address, and JMPL, with nothing. -/
  | sparcNotAligned (addr : Option Word)
  /-- P4 `data_access_exception`: LD where SPARC_DAE holds (R705). -/
  | sparcDataAccess (addr : Word)
  /-- P5 Address Error (R710): LW, with its data address, and the fetch at an unaligned PC, with nothing: the PC is in the
  state. -/
  | mipsAddressError (addr : Option Word)
  /-- P5 TLB Refill, TLB Invalid, Bus Error, Address Error, Watch: LW through MIPS_XLATE (R710). -/
  | mipsXlate (e : MipsXlateFault) (addr : Word)
  /-- P5 Reserved Instruction (R710). -/
  | mipsReserved
  /-- P6 illegal instruction: the shift-immediate words of R720. -/
  | rvIllegal
  /-- P6 access fault where RV_ACCESS_FAULT holds (spec/20_memory.md R120). -/
  | rvAccessFault (kind : RvAccess) (addr : Nat)
  deriving DecidableEq, Repr

/-- The machine stops with a fault (spec/60_exceptions.md R682: `Fault(exception, info, state)` and `Stuck(state)`). -/
inductive Fault
  /-- An instruction or its fetch raised an exception; no entry to a handler is in the spec, so the run ends with the
  state that R681 keeps. Raised through `takeException` only. Safe: the model goes on nowhere the spec does not. -/
  | raised (e : Exception) (s : State)
  /-- P1 after the shutdown of a PUSH in real-address mode (spec/10_state.md R30). Raised by `step` only. Safe. -/
  | stuck (s : State)
  deriving DecidableEq, Repr

/-- The model gives no meaning (spec/60_exceptions.md R682: `Refused(reason)`; spec/00_scope.md R12). Every
constructor is safe: nothing can be proved about what follows. -/
inductive Refusal
  /-- An arm of `exec` without its meaning. -/
  | notModelled (mnemonic : String)
  /-- The bits at the program counter are no listed instruction: raised by `step` (spec/30_encoding.md R240), and by a
  P1 prefix arm whose term repeats a prefix (R158). -/
  | undecodable (why : DecodeErr)
  /-- A fetch from a byte the program has stored to: raised by `step` (spec/20_memory.md R127, D9). -/
  | fetchOfStored
  /-- P1 LOCK prefix (spec/30_encoding.md R158; spec/20_memory.md R108). -/
  | lockPrefix
  /-- P1 far RET (spec/40_ia32.md R298). -/
  | farReturn
  /-- P1 stack access over the 0xFFFF/0x0000 boundary of a 16-bit stack (spec/20_memory.md R105). -/
  | stackStraddle
  /-- A P1 prefix before a term that is no P1 instruction; no decoded instruction is one. -/
  | prefixedForeign
  /-- P2 with T = 1: raised by `step` (spec/41_arm.md R330, D20). -/
  | thumb
  /-- P2 write of R15, or fetch at R15, with low bits not 00 (spec/10_state.md R32, D14). -/
  | armPcLowBits
  /-- P2 S with Rd = R15 in User or System mode: UNPREDICTABLE (spec/41_arm.md R336). -/
  | armNoSpsr
  /-- P2 LDR with writeback and Rd = Rn: UNPREDICTABLE (spec/41_arm.md R350). -/
  | armWritebackRd
  /-- P2 LDR with R15 as base and writeback (spec/41_arm.md R350). -/
  | armWritebackPc
  /-- P2 BX to ARM state with bit 1 set: UNPREDICTABLE (spec/41_arm.md R358). -/
  | armBxBit1
  /-- P2 B or BL past an end of the address space: UNPREDICTABLE (spec/41_arm.md R355). -/
  | armBranchWrap
  /-- P3 lwzu with rA = 0 or rA = rD: invalid form (spec/42_powerpc.md R397). -/
  | ppcInvalidForm
  /-- P3 mtspr to another SPR outside user mode (spec/42_powerpc.md R395). -/
  | ppcSupervisorSpr
  /-- P3 mtspr to another SPR in user mode, boundedly undefined (spec/42_powerpc.md R395). -/
  | ppcBoundedlyUndefined
  /-- P4 Bicc or JMPL in a delay slot: unpredictable (spec/43_sparc.md R463, D24). -/
  | sparcCtiInSlot
  /-- P5 with ISAMode = 1: raised by `step` (spec/10_state.md R55). -/
  | mipsIsaMode
  /-- P5 BNE or JR in a delay slot before Release 6: UNPREDICTABLE (spec/44_mips32.md R537). -/
  | mipsCtiInSlot
  /-- P5 EXT with lsb + msbd > 31: UNPREDICTABLE (spec/44_mips32.md R538). -/
  | mipsExtRange
  /-- P5 INS with lsb > msb: UNPREDICTABLE (spec/44_mips32.md R539). -/
  | mipsInsRange
  /-- P5 function 001001 before Release 6, which is JALR (spec/30_encoding.md R197). -/
  | mipsJalr
  /-- P6 word of an XLEN or RV_EXT group that is not configured (spec/45_riscv.md R580; spec/30_encoding.md R229). -/
  | rvNotConfigured
  /-- P6 atomic at a misaligned address (spec/20_memory.md R120, D6). -/
  | rvMisalignedAtomic
  /-- P6 store that overlaps the reservation (spec/10_state.md R61, D22), where `RvUnsettled` is `refuse`. -/
  | rvReservedStore
  /-- P6 sc.d with a word reservation inside its doubleword (spec/45_riscv.md R633, D22), where `RvUnsettled` is
  `refuse`. -/
  | rvWordReservation
  /-- P6 remw or remuw by zero (spec/45_riscv.md R624, D28), where `RvUnsettled` is `refuse`. -/
  | rvZeroDivisor
  /-- P6 control transfer to a misaligned target (spec/45_riscv.md R628, D25). -/
  | rvMisalignedTarget
  /-- P6 mret outside machine mode, sret in user mode (spec/45_riscv.md R645, D27). -/
  | rvPrivilege
  /-- P6 mret with an MPP that names no supported mode (spec/45_riscv.md R643). -/
  | rvBadMpp
  deriving DecidableEq, Repr

/-! ### Reset

The spec gives no reset value to anything (spec/10_state.md R95; spec/70_reset_and_hazards.md R740, R741); the hidden
latches start as R742 says. Every other value here is the model's, logged in notes/assumptions/4.md to 10.md. -/

/-- Every register zero. -/
def zeroRegs (k w : Nat) : RegFile k w := Vector.replicate (2 ^ k) 0

/-- The flat segment of spec/20_memory.md R104 with 32-bit size attributes. -/
def flatSeg : X86Seg :=
  { sel := 0x0023#16, null := false, desc := { base := 0, limit := 0xFFFFFFFF#32, writable := true, big := true } }

/-- P1 after reset (notes/assumptions/5.md). -/
def X86State.reset : X86State where
  gpr := zeroRegs 3 32
  segs := { es := flatSeg, cs := flatSeg, ss := flatSeg, ds := flatSeg, fs := flatSeg, gs := flatSeg }
  eip := 0
  flags := { cf := false, pf := false, af := false, zf := false, sf := false, ovf := false }
  pe := true
  vm := false
  iopl := 0
  cpl := 0
  alignCheck := false
  intEnable := false
  inhibitNext := false
  shutdown := false
  pfx := .none
  mem := []
  stored := []
  params := { seg := .based [], loadSegs := [], popWrap := .anywhere }
  draws := 0

/-- P2 after reset (notes/assumptions/6.md). -/
def ArmState.reset : ArmState where
  r := zeroRegs 4 32
  cpsr := 0x00000010#32
  spsr := zeroRegs 5 32
  params := { v4T := true, alignCheck := false, order := .little, aborts := [] }
  mem := []
  draws := 0

/-- P3 after reset (notes/assumptions/7.md). -/
def PpcState.reset : PpcState where
  gpr := zeroRegs 5 32
  cr := 0
  xer := 0
  lr := 0
  ctr := 0
  cia := 0
  params := { user := true, mtsprAt := [], mtsprElse := .illegalInstruction, dsi := [] }
  mem := []

/-- P4 after reset (notes/assumptions/8.md). -/
def SparcState.reset : SparcState where
  r := zeroRegs 5 32
  pc := 0
  npc := 4
  psr := 0
  y := 0
  wim := 0
  tbr := 0
  annulNext := false
  inDelaySlot := false
  params := { cpPresent := false, dae := [] }
  mem := []

/-- P5 after reset (notes/assumptions/9.md). -/
def MipsState.reset : MipsState where
  gpr := zeroRegs 5 32
  pc := 0
  delayed := none
  isaMode := 0
  params := { release := .r2, config3ISA := 0, config1CA := 0, misalign := .addressError, order := .big, xlate := [] }
  mem := []

/-- P6 after reset (notes/assumptions/10.md). -/
def RvState.reset : RvState where
  x := zeroRegs 5 64
  pc := 0
  priv := .machine
  mie := false
  mpie := false
  mpp := 0
  mepc := 0
  sie := false
  spie := false
  spp := 0
  sepc := 0
  cycle := 0
  reservation := none
  params := { rv64 := true, extA := true, extM := true, extC := true, privM := true, privS := true, userMode := true,
              scMayFail := false, accessFaults := [], unsettled := .refuse }
  mem := []
  stored := []
  draws := 0

/-- The machine right after reset: P1 runs (notes/assumptions/1.md). -/
def State.reset : State where
  part := .p1
  x86 := .reset
  arm := .reset
  ppc := .reset
  sparc := .reset
  mips := .reset
  rv := .reset

end Sys2Proof.Machine
end

