-- ==== Sys2Proof/Machine/Ops.lean ====
section
/-! DEFINITION. The operations over memory and registers that the meanings share, part by part: reading and writing
bytes and values, register accessors, taking an exception (one operation for all parts), the returns from exception,
and how an instruction's body becomes a step's outcome. -/

namespace Sys2Proof.Machine

/-! ### Memory (spec/20_memory.md R100, R101) -/

/-- The byte at an address. -/
def Memory.get : Memory → Nat → Byte
  | [], _ => Memory.unlisted
  | (k, b) :: t, a => if a < k then Memory.unlisted else if a = k then b else Memory.get t a

/-- One byte written, in canonical form: writing what an unlisted address reads as removes the entry. -/
def Memory.put : Memory → Nat → Byte → Memory
  | [], a, v => if v = Memory.unlisted then [] else [(a, v)]
  | (k, b) :: t, a, v =>
    if a < k then if v = Memory.unlisted then (k, b) :: t else (a, v) :: (k, b) :: t
    else if a = k then if v = Memory.unlisted then t else (a, v) :: t
    else (k, b) :: Memory.put t a v

/-- `n` bytes from address `a` up, addresses modulo `top` (R101). -/
def Memory.bytes (top : Nat) (m : Memory) : Nat → Nat → List Byte
  | _, 0 => []
  | a, n + 1 => m.get (a % top) :: Memory.bytes top m (a + 1) n

/-- Bytes written from address `a` up, addresses modulo `top` (R101). -/
def Memory.putBytes (top : Nat) (m : Memory) : Nat → List Byte → Memory
  | _, [] => m
  | a, b :: t => Memory.putBytes top (m.put (a % top) b) (a + 1) t

/-- The number whose least-significant byte comes first. -/
def valueLE : List Byte → Nat
  | [] => 0
  | b :: t => b.toNat + 256 * valueLE t

/-- The `n` low bytes of a number, least-significant first. -/
def bytesLE : Nat → Nat → List Byte
  | 0, _ => []
  | n + 1, v => BitVec.ofNat 8 v :: bytesLE n (v / 256)

/-- `MemRead` of `w` bits in a byte order (R101). -/
def Memory.read (o : ByteOrder) (top w : Nat) (m : Memory) (a : Nat) : BitVec w :=
  let l := m.bytes top a (w / 8)
  BitVec.ofNat w (valueLE (match o with | .little => l | .big => l.reverse))

/-- `MemWrite` of `w` bits in a byte order (R101). -/
def Memory.write (o : ByteOrder) (top w : Nat) (m : Memory) (a : Nat) (v : BitVec w) : Memory :=
  let l := bytesLE (w / 8) v.toNat
  m.putBytes top a (match o with | .little => l | .big => l.reverse)

/-- One more stored address. -/
def StoredSet.add : StoredSet → Nat → StoredSet
  | [], a => [a]
  | k :: t, a => if a < k then a :: k :: t else if a = k then k :: t else k :: StoredSet.add t a

/-- The `n` addresses from `a` up, modulo `top`, become stored addresses (R127). -/
def StoredSet.addRange (top : Nat) (l : StoredSet) : Nat → Nat → StoredSet
  | _, 0 => l
  | a, n + 1 => StoredSet.addRange top (l.add (a % top)) (a + 1) n

/-- The size of a 32-bit address space (R100). -/
abbrev top32 : Nat := 2 ^ 32

/-- An address lies in a region. -/
def Region.has (r : Region) (a : Nat) : Bool := decide (r.base ≤ a ∧ a < r.base + r.size)

/-- An address predicate of spec/00_scope.md R7 held as regions. -/
def inRegions (l : List Region) (a : Nat) : Bool := l.any fun r => Region.has r a

/-- One of the `n` bytes from `a` up satisfies `p`. -/
def anyByte (top a n : Nat) (p : Nat → Bool) : Bool := (List.range n).any fun j => p ((a + j) % top)

/-- `w` with bit `i` replaced. -/
def putBit (w : BitVec n) (i : Nat) (b : Bool) : BitVec n :=
  if b then w ||| (1#n <<< i) else w &&& ~~~(1#n <<< i)

/-! ### Outcomes -/

/-- How an instruction's body stops without completing. -/
inductive Stop (σ : Type)
  /-- An exception; the part keeps the state before the instruction (spec/60_exceptions.md R681). -/
  | raises (e : Exception)
  /-- An exception that leaves the part as `t` (R681's exception: spec/41_arm.md R352). -/
  | raisesLeaving (e : Exception) (t : σ)
  /-- No meaning (R682). -/
  | refuses (r : Refusal)
  deriving DecidableEq, Repr

/-- What a body answers: the part's state after the instruction, or why it stops. -/
abbrev Body (σ : Type) := Except (Stop σ) σ

/-- What a step answers. -/
abbrev Result := Host.Outcome State Fault Refusal

/-- TAKING AN EXCEPTION, for every part: the run ends with the exception, its address or error code, and the state
(spec/60_exceptions.md R682; the entry itself, TRAP_ENTRY, is out of scope by spec/00_scope.md R6). The prefixes that
the model holds for the instruction in hand are dropped: `s` is then the state before the instruction (R681). -/
def takeException (e : Exception) (s : State) : Result :=
  .fault (.raised e { s with x86 := { s.x86 with pfx := .none } })

/-- A body's answer as a step's outcome; `put` writes the part's state into the whole. -/
def finish (s : State) (put : σ → State) : Body σ → Result
  | .ok t => .next (put t)
  | .error (.raises e) => takeException e s
  | .error (.raisesLeaving e t) => takeException e (put t)
  | .error (.refuses r) => .refused r

/-! ### P1 registers and attributes (spec/10_state.md R20 to R28) -/

/-- X86_MODE (R27). -/
inductive X86Mode
  | real
  | v86
  | prot
  deriving DecidableEq, Repr

/-- X86_MODE from PE and VM (R27). -/
def X86State.mode (x : X86State) : X86Mode :=
  if x.pe then (if x.vm then .v86 else .prot) else .real

/-- `OperandSize` = 32 (R28; spec/30_encoding.md R158). -/
def X86State.op32 (x : X86State) : Bool := x.segs.cs.desc.big != x.pfx.op

/-- `AddressSize` = 32 (R28; spec/30_encoding.md R158). -/
def X86State.addr32 (x : X86State) : Bool := x.segs.cs.desc.big != x.pfx.addr

/-- `StackAddrSize` = 32 (R22). -/
def X86State.stack32 (x : X86State) : Bool := x.segs.ss.desc.big

/-- The register that holds `reg_w[n]` and the lowest bit of it there (R21): AH, CH, DH, BH are bits 15:8. -/
def regHome (w : Nat) (n : BitVec 3) : BitVec 3 × Nat :=
  if w = 8 ∧ n.getLsbD 2 then (n - 4#3, 8) else (n, 0)

/-- `reg32[n]`. -/
def X86State.gpr32 (x : X86State) (n : BitVec 3) : Word := x.gpr[n.toNat]'n.isLt

/-- `reg_w[n]` for w = 8, 16, 32 (R21). -/
def X86State.readReg (w : Nat) (x : X86State) (n : BitVec 3) : BitVec w :=
  (x.gpr32 (regHome w n).1).extractLsb' (regHome w n).2 w

/-- `old` with the `w` bits from `lo` up replaced. -/
def insertAt (lo : Nat) (v : BitVec w) (old : Word) : Word :=
  (old &&& ~~~(((BitVec.allOnes w).setWidth 32) <<< lo)) ||| (v.setWidth 32 <<< lo)

/-- `reg_w[n] <- v`: the other bits of the 32-bit register keep their value (R21). -/
def X86State.writeReg (x : X86State) (n : BitVec 3) (v : BitVec w) : X86State :=
  let h := regHome w n
  { x with gpr := x.gpr.set h.1.toNat (insertAt h.2 v (x.gpr32 h.1)) h.1.isLt }

/-- The numbers of the registers the instructions name (spec/30_encoding.md R153). -/
abbrev eax : BitVec 3 := 0
/-- ECX, CX, CL. -/
abbrev ecx : BitVec 3 := 1
/-- ESP, SP. -/
abbrev esp : BitVec 3 := 4

/-- The segment register of a Sreg number; 6 and 7 are none (spec/30_encoding.md R153). -/
def sregOf (n : BitVec 3) : Option X86Sreg :=
  if n = 0 then some .es else if n = 1 then some .cs else if n = 2 then some .ss else if n = 3 then some .ds
  else if n = 4 then some .fs else if n = 5 then some .gs else none

/-- A segment register. -/
def X86Segs.get (g : X86Segs) : X86Sreg → X86Seg
  | .es => g.es
  | .cs => g.cs
  | .ss => g.ss
  | .ds => g.ds
  | .fs => g.fs
  | .gs => g.gs

/-- A segment register replaced. -/
def X86Segs.set (g : X86Segs) (s : X86Sreg) (v : X86Seg) : X86Segs :=
  match s with
  | .es => { g with es := v }
  | .cs => { g with cs := v }
  | .ss => { g with ss := v }
  | .ds => { g with ds := v }
  | .fs => { g with fs := v }
  | .gs => { g with gs := v }

/-- `UNDEFINED_VALUE(w)` of P1, and the state with that draw counted. -/
def X86State.draw (x : X86State) (w : Nat) : BitVec w × X86State :=
  (Config.x86Free w x.draws, { x with draws := x.draws + 1 })

/-! ### P1 memory through segments (spec/20_memory.md R104 to R108) -/

/-- DS, ES, FS and GS fault when null; CS and SS never hold null (R106 row 2). -/
def faultsNull : X86Sreg → Bool
  | .ds | .es | .fs | .gs => true
  | .cs | .ss => false

/-- The exception of an access outside a segment's limit (R106). -/
def limitExc : X86Sreg → X86Exc
  | .ss => .ss 0
  | _ => .gp 0

/-- The kinds of access that write. -/
def X86Access.stores : X86Access → Bool
  | .write | .stackWrite => true
  | .read | .stackRead | .fetch => false

/-- What X86_SEG may depend on (R104). -/
def X86State.view (x : X86State) : X86View :=
  { pe := x.pe, vm := x.vm, iopl := x.iopl, cpl := x.cpl, segs := x.segs, mem := x.mem }

/-- The first rule of a listed paging for one byte. -/
def pageRuleAt (l : List X86PageRule) (kind : X86Access) (a : Nat) : Option X86PageAnswer :=
  (l.find? fun p => Region.has p.region a && p.kinds.contains kind).map fun p =>
    match p.answer with
    | .fault code => .fault code
    | .lies b => .lies (b + BitVec.ofNat 32 (a - p.region.base))

/-- The fault code of an answer, if it is one. -/
def X86PageAnswer.code : X86PageAnswer → Option Word
  | .lies _ => none
  | .fault code => some code

/-- A listed paging's answer for `n` bytes from `a` up: the first fault of a byte, or where the first byte lies. -/
def pageAnswer (l : List X86PageRule) (kind : X86Access) (a : Word) (n : Nat) : X86PageAnswer :=
  match (List.range n).findSome? fun j => (pageRuleAt l kind ((a.toNat + j) % top32)).bind X86PageAnswer.code with
  | some code => .fault code
  | none => (pageRuleAt l kind a.toNat).getD (.lies a)

/-- The linear address of X86_SEG (R104). -/
def X86State.linearOf (x : X86State) (sg : X86Sreg) (off : Word) (n : Nat) (kind : X86Access) : Word :=
  match x.params.seg with
  | .based _ => (x.segs.get sg).desc.base + off
  | .other k => Config.x86Linear k x.view sg off n kind

/-- Where X86_SEG puts a linear address in protected mode, or its page fault (R104, R106). -/
def X86State.pageOf (x : X86State) (a : Word) (n : Nat) (kind : X86Access) : X86PageAnswer :=
  match x.params.seg with
  | .based pages => pageAnswer pages kind a n
  | .other k => Config.x86Page k x.view a n kind

/-- The fault that X86_SEG supplies outside protected mode, where the pages list none (R106, U48). -/
def X86State.unlistedFault (x : X86State) (sg : X86Sreg) (off : Word) (n : Nat) (kind : X86Access) : Option X86Exc :=
  match x.params.seg with
  | .based _ => none
  | .other k => Config.x86Unlisted k x.view sg off n kind

/-- One of the `n` bytes at `off`, taken modulo 2^32, is outside the segment's limit (R106; that every byte is tested is
the model's DESIGN CHOICE, notes/assumptions/14.md). -/
def X86State.pastLimit (x : X86State) (sg : X86Sreg) (off : Word) (n : Nat) : Bool :=
  anyByte top32 off.toNat n fun b => decide ((x.segs.get sg).desc.limit.toNat < b)

/-- X86_SEG (R104): where `n` bytes at `off` in segment `sg` lie, or a fault. The list of R106 holds in protected mode
only (spec/10_state.md R27), in the order of spec/60_exceptions.md R691 (notes/assumptions/14.md). -/
def X86State.xseg (x : X86State) (sg : X86Sreg) (off : Word) (n : Nat) (kind : X86Access) : Except X86Exc Word :=
  let g := x.segs.get sg
  let a := x.linearOf sg off n kind
  if x.mode ≠ .prot then
    match x.unlistedFault sg off n kind with
    | some e => .error e
    | none => .ok a
  else if faultsNull sg ∧ g.null then .error (.gp 0)
  else if X86Access.stores kind ∧ ¬ g.desc.writable then .error (.gp 0)
  else if x.pastLimit sg off n then .error (limitExc sg)
  else if x.alignCheck ∧ x.cpl = 3#2 ∧ a.toNat % n ≠ 0 then .error (.ac 0)
  else
    match x.pageOf a n kind with
    | .fault code => .error (.pf code)
    | .lies b => .ok b

/-- `MemReadSeg` (R104). -/
def X86State.readSeg (w : Nat) (x : X86State) (sg : X86Sreg) (off : Word) (kind : X86Access) :
    Except (Stop X86State) (BitVec w) :=
  match x.xseg sg off (w / 8) kind with
  | .ok a => .ok (x.mem.read .little top32 w a.toNat)
  | .error e => .error (.raises (.x86 e))

/-- The bytes from `a` up written, and remembered as stored (R127). -/
def X86State.store (x : X86State) (a : Word) (v : BitVec w) : X86State :=
  { x with mem := x.mem.write .little top32 w a.toNat v, stored := x.stored.addRange top32 a.toNat (w / 8) }

/-- `MemWriteSeg` (R104). -/
def X86State.writeSeg (x : X86State) (sg : X86Sreg) (off : Word) (kind : X86Access) (v : BitVec w) : Body X86State :=
  match x.xseg sg off (w / 8) kind with
  | .ok a => .ok (x.store a v)
  | .error e => .error (.raises (.x86 e))

/-! ### P1 stack (spec/10_state.md R22; spec/40_ia32.md R253, R254) -/

/-- The stack pointer as an offset: ESP, or SP zero-extended. -/
def X86State.sp (x : X86State) : Word :=
  if x.stack32 then x.readReg 32 esp else (x.readReg 16 esp).setWidth 32

/-- The stack pointer that `d` bytes away: modulo 2^32 on ESP, modulo 2^16 on SP. -/
def X86State.spPlus (x : X86State) (d : Word) : Word :=
  if x.stack32 then x.readReg 32 esp + d else (x.readReg 16 esp + d.setWidth 16).setWidth 32

/-- The stack pointer written: ESP, or SP alone. -/
def X86State.setSp (x : X86State) (v : Word) : X86State :=
  if x.stack32 then x.writeReg esp v else x.writeReg esp (v.setWidth 16)

/-- The `n` bytes at `off` straddle the end of a 16-bit stack (spec/20_memory.md R105). -/
def X86State.straddles (x : X86State) (off : Word) (n : Nat) : Bool :=
  !x.stack32 && decide (0x10000 < off.toNat + n)

/-- `Push(v, w/8)` (R253): decrement, store, and only then move the stack pointer. -/
def X86State.push (x : X86State) (v : BitVec w) : Body X86State :=
  let t := x.spPlus (-(BitVec.ofNat 32 (w / 8)))
  if x.straddles t (w / 8) then .error (.refuses .stackStraddle)
  else
    match x.writeSeg .ss t .stackWrite v with
    | .ok y => .ok (y.setSp t)
    | .error e => .error e

/-- `Pop(w/8)` (R254): read the top of stack, then increment. -/
def X86State.pop (w : Nat) (x : X86State) : Except (Stop X86State) (BitVec w × X86State) :=
  if x.straddles x.sp (w / 8) then .error (.refuses .stackStraddle)
  else
    match x.readSeg w .ss x.sp .stackRead with
    | .ok v => .ok (v, x.setSp (x.spPlus (BitVec.ofNat 32 (w / 8))))
    | .error e => .error e

/-- The shutdown condition of a PUSH (spec/40_ia32.md R262): real-address mode with the stack pointer equal to 1. -/
def X86State.stackExhausted (x : X86State) : Bool := decide (x.mode = .real) && x.sp == 1#32

/-- A PUSH form (R262): shut down, or run `body`. -/
def X86State.guardPush (x : X86State) (body : Body X86State) : Body X86State :=
  if x.stackExhausted then .ok { x with shutdown := true } else body

/-- A near transfer of control to `target`, checked against the code-segment limit (spec/40_ia32.md R274, R296). -/
def X86State.jumpNear (x : X86State) (target : Word) : Body X86State :=
  if x.segs.cs.desc.limit < target then .error (.raises (.x86 (.gp 0))) else .ok { x with eip := target }

/-! ### P1 segment loads (spec/40_ia32.md R287, R288) -/

/-- A null selector: 0000h to 0003h (spec/10_state.md R23). -/
def isNullSelector (sel : Half) : Bool := sel.extractLsb' 2 14 == 0#14

/-- X86_LOADSEG(s, sel), and the state with what was drawn: the entry the parameter lists, or an unknown function
(notes/assumptions/12.md). -/
def X86State.segLoad (x : X86State) (s : X86Sreg) (sel : Half) : X86SegLoad × X86State :=
  match x.params.loadSegs.find? fun e => decide (e.sreg = s ∧ e.sel = sel) with
  | some e => (e.result, x)
  | none => (Config.x86LoadSeg x.draws s sel, { x with draws := x.draws + 1 })

/-- `LoadSeg(s, sel)` (R287, R288). -/
def X86State.loadSeg (x : X86State) (s : X86Sreg) (sel : Half) : Body X86State :=
  if x.mode = .prot ∧ isNullSelector sel then
    if faultsNull s then
      .ok { x with segs := x.segs.set s { (x.segs.get s) with sel := sel, null := true } }
    else .error (.raises (.x86 (.gp 0)))
  else
    match (x.segLoad s sel).1 with
    | .loaded d =>
      .ok { (x.segLoad s sel).2 with segs := x.segs.set s { sel := sel, null := false, desc := d } }
    | .raises e => .error (.raises (.x86 e))

/-! ### P1: from a body to a step (spec/40_ia32.md R250) -/

/-- The bytes of the instruction in hand, prefixes included. -/
def X86State.lengthOf (x : X86State) (i : Instr) : Nat :=
  x.pfx.count + (encodeX86 x.segs.cs.desc.big x.pfx i).length

/-- The state a body runs in: EIP past the instruction (R24), the inhibit latch of the previous one spent (R29). -/
def X86State.entered (x : X86State) (i : Instr) : X86State :=
  { x with eip := x.eip + BitVec.ofNat 32 (x.lengthOf i), inhibitNext := false }

/-- The whole state with P1 as `x`, the prefixes of the completed instruction gone. -/
def State.withX86 (s : State) (x : X86State) : State := { s with x86 := { x with pfx := .none } }

/-- One P1 instruction: `body` runs with EIP at the next instruction. -/
def x86Do (i : Instr) (body : X86State → Body X86State) (s : State) : Result :=
  finish s s.withX86 (body (s.x86.entered i))

/-! ### P2 (spec/10_state.md R31 to R35) -/

/-- A register as the file holds it. -/
def ArmState.reg (a : ArmState) (n : BitVec 4) : Word := a.r[n.toNat]'n.isLt

/-- The address of the instruction being executed. -/
def ArmState.pc (a : ArmState) : Word := a.reg 15

/-- A register as an operand: R15 reads as the instruction's address plus 8 (R32). -/
def ArmState.readReg (a : ArmState) (n : BitVec 4) : Word := if n = 15#4 then a.pc + 8 else a.reg n

/-- A register written; writing R15 is a branch (R32). -/
def ArmState.setReg (a : ArmState) (n : BitVec 4) (v : Word) : ArmState := { a with r := a.r.set n.toNat v n.isLt }

/-- The next instruction is at the current address plus 4 (spec/41_arm.md R330). -/
def ArmState.advance (a : ArmState) : ArmState := a.setReg 15 (a.pc + 4)

/-- The N flag (R33). -/
def ArmState.n (a : ArmState) : Bool := a.cpsr.getLsbD 31
/-- The Z flag (R33). -/
def ArmState.z (a : ArmState) : Bool := a.cpsr.getLsbD 30
/-- The C flag (R33). -/
def ArmState.c (a : ArmState) : Bool := a.cpsr.getLsbD 29
/-- The V flag (R33). -/
def ArmState.v (a : ArmState) : Bool := a.cpsr.getLsbD 28
/-- The T flag (R33). -/
def ArmState.t (a : ArmState) : Bool := a.cpsr.getLsbD 5
/-- The processor mode (R33). -/
def ArmState.mode (a : ArmState) : BitVec 5 := a.cpsr.extractLsb' 0 5

/-- The four condition flags written (R33); the rest of CPSR keeps its value. -/
def ArmState.setNZCV (a : ArmState) (n z c v : Bool) : ArmState :=
  { a with cpsr := putBit (putBit (putBit (putBit a.cpsr 31 n) 30 z) 29 c) 28 v }

/-- User mode (R33). -/
abbrev armUser : BitVec 5 := 0x10
/-- System mode (R33). -/
abbrev armSystem : BitVec 5 := 0x1F
/-- FIQ mode (PRESUMED, notes/assumptions/23.md). -/
abbrev armFiq : BitVec 5 := 0x11

/-- User and System mode have no SPSR (R34). -/
def ArmState.hasSpsr (a : ArmState) : Bool := a.mode != armUser && a.mode != armSystem

/-- The SPSR of the current mode (R34). -/
def ArmState.currentSpsr (a : ArmState) : Word := a.spsr[a.mode.toNat]'a.mode.isLt

/-- `UNDEFINED_VALUE(w)` of P2, and the state with that draw counted. -/
def ArmState.draw (a : ArmState) (w : Nat) : BitVec w × ArmState :=
  (Config.armFree w a.draws, { a with draws := a.draws + 1 })

/-- Registers that get a free value, one draw each. -/
def ArmState.forget (a : ArmState) : List (BitVec 4) → ArmState
  | [] => a
  | n :: t => ((a.draw 32).2.setReg n (a.draw 32).1).forget t

/-- The registers whose contents a change of mode makes unknown (R35). -/
def bankedBetween (m m' : BitVec 5) : List (BitVec 4) :=
  if m = m' then []
  else if m = armFiq ∨ m' = armFiq then [8, 9, 10, 11, 12, 13, 14]
  else [13, 14]

/-- RETURN FROM EXCEPTION of P2: `CPSR = SPSR` (spec/41_arm.md R336; spec/60_exceptions.md R696) with the banking of
R35. The caller writes the PC. -/
def armReturn (a : ArmState) : ArmState :=
  { (a.forget (bankedBetween a.mode (a.currentSpsr.extractLsb' 0 5))) with cpsr := a.currentSpsr }

/-- A value written to the PC by data processing or LDR: refused unless word aligned (R32, D14). -/
def ArmState.branchTo (a : ArmState) (v : Word) : Body ArmState :=
  if v.extractLsb' 0 2 = 0#2 then .ok (a.setReg 15 v) else .error (.refuses .armPcLowBits)

/-! ### P3 (spec/10_state.md R36 to R41; bit {i} is bit 31 − i, spec/00_scope.md R8) -/

/-- `(rN)`. -/
def PpcState.reg (p : PpcState) (n : BitVec 5) : Word := p.gpr[n.toNat]'n.isLt

/-- `GPR[n] <- v`. -/
def PpcState.setReg (p : PpcState) (n : BitVec 5) (v : Word) : PpcState :=
  { p with gpr := p.gpr.set n.toNat v n.isLt }

/-- XER[SO] (R38). -/
def PpcState.so (p : PpcState) : Bool := p.xer.getLsbD 31
/-- XER[OV] (R38). -/
def PpcState.ov (p : PpcState) : Bool := p.xer.getLsbD 30
/-- XER[CA] (R38). -/
def PpcState.ca (p : PpcState) : Bool := p.xer.getLsbD 29

/-- CR{i} (R37). -/
def PpcState.crBit (p : PpcState) (i : BitVec 5) : Bool := p.cr.getLsbD (31 - i.toNat)

/-- NIA = CIA + 4 (R41). -/
def PpcState.advance (p : PpcState) : PpcState := { p with cia := p.cia + 4 }

/-- One P3 instruction. -/
def ppcDo (body : PpcState → Body PpcState) (s : State) : Result :=
  finish s (fun p => { s with ppc := p }) (body s.ppc)

/-! ### P4 (spec/10_state.md R43 to R49) -/

/-- r[n]; r[0] reads as zero (R44). -/
def SparcState.reg (p : SparcState) (n : BitVec 5) : Word := if n = 0#5 then 0 else p.r[n.toNat]'n.isLt

/-- `r[n] <- v`; a write to r[0] is discarded (R44). -/
def SparcState.setReg (p : SparcState) (n : BitVec 5) (v : Word) : SparcState :=
  if n = 0#5 then p else { p with r := p.r.set n.toNat v n.isLt }

/-- icc n (R47). -/
def SparcState.n (p : SparcState) : Bool := p.psr.getLsbD 23
/-- icc z (R47). -/
def SparcState.z (p : SparcState) : Bool := p.psr.getLsbD 22
/-- icc v (R47). -/
def SparcState.v (p : SparcState) : Bool := p.psr.getLsbD 21
/-- icc c (R47). -/
def SparcState.c (p : SparcState) : Bool := p.psr.getLsbD 20

/-- The integer condition codes written (R47); the rest of PSR keeps its value. -/
def SparcState.setIcc (p : SparcState) (n z v c : Bool) : SparcState :=
  { p with psr := putBit (putBit (putBit (putBit p.psr 23 n) 22 z) 21 v) 20 c }

/-- `PC <- nPC; nPC <- nPC + 4` (R46); the instruction was no control transfer, so the next is in no delay slot. -/
def SparcState.advance (p : SparcState) : SparcState :=
  { p with pc := p.npc, npc := p.npc + 4, inDelaySlot := false }

/-- A delayed control transfer: the delay instruction at the old nPC is next (R46, R49). -/
def SparcState.transfer (p : SparcState) (npc : Word) (annul : Bool) : SparcState :=
  { p with pc := p.npc, npc := npc, annulNext := annul, inDelaySlot := true }

/-- One P4 instruction that is no control transfer (spec/43_sparc.md R450). -/
def sparcDo (body : SparcState → Body SparcState) (s : State) : Result :=
  finish s (fun p => { s with sparc := p.advance }) (body s.sparc)

/-- One P4 control transfer; refused in a delay slot (spec/43_sparc.md R463, D24). -/
def sparcTransferDo (body : SparcState → Body SparcState) (s : State) : Result :=
  if s.sparc.inDelaySlot then .refused .sparcCtiInSlot
  else finish s (fun p => { s with sparc := p }) (body s.sparc)

/-! ### P5 (spec/10_state.md R51 to R55) -/

/-- GPR[n]; GPR[0] reads as zero (R52). -/
def MipsState.reg (p : MipsState) (n : BitVec 5) : Word := if n = 0#5 then 0 else p.gpr[n.toNat]'n.isLt

/-- `GPR[n] <- v`; a write to GPR[0] is discarded (R52). -/
def MipsState.setReg (p : MipsState) (n : BitVec 5) (v : Word) : MipsState :=
  if n = 0#5 then p else { p with gpr := p.gpr.set n.toNat v n.isLt }

/-- The end of an instruction that is no branch: on to the pending target, or to PC + 4 (spec/44_mips32.md R530). -/
def MipsState.advance (p : MipsState) : MipsState :=
  match p.delayed with
  | some d => { p with pc := d.target, isaMode := d.isa.getD p.isaMode, delayed := none }
  | none => { p with pc := p.pc + 4 }

/-- One P5 instruction that is no control transfer. -/
def mipsDo (body : MipsState → Body MipsState) (s : State) : Result :=
  finish s (fun p => { s with mips := p.advance }) (body s.mips)

/-- One P5 control transfer: `body` says what is pending. In a delay slot it raises Reserved Instruction in Release 6
and is refused before (spec/44_mips32.md R537). -/
def mipsTransferDo (body : MipsState → Except (Stop MipsState) MipsPending) (s : State) : Result :=
  if s.mips.delayed.isSome then
    if s.mips.params.release = .r6 then takeException .mipsReserved s else .refused .mipsCtiInSlot
  else
    finish s (fun p => { s with mips := p })
      (match body s.mips with
       | .ok d => .ok { s.mips with pc := s.mips.pc + 4, delayed := some d }
       | .error e => .error e)

/-! ### P6 (spec/10_state.md R56 to R61) -/

/-- XLEN. -/
def RvState.xlen (p : RvState) : Nat := if p.params.rv64 then 64 else 32

/-- The size of the address space, 2^XLEN (spec/20_memory.md R100). -/
def RvState.top (p : RvState) : Nat := 2 ^ p.xlen

/-- The low `n` bits of x[i]; x[0] reads as zero (R57). With `n` = XLEN this is the register. -/
def RvState.reg (n : Nat) (p : RvState) (i : BitVec 5) : BitVec n :=
  if i = 0#5 then 0 else (p.x[i.toNat]'i.isLt).setWidth n

/-- `x[i] <- v`; a write to x[0] is discarded (R57). -/
def RvState.setReg (p : RvState) (i : BitVec 5) (v : BitVec n) : RvState :=
  if i = 0#5 then p else { p with x := p.x.set i.toNat (v.setWidth 64) i.isLt }

/-- A value of the pc or of a CSR, cut to XLEN bits. -/
def RvState.cut (p : RvState) (v : DWord) : DWord := if p.params.rv64 then v else (v.setWidth 32).setWidth 64

/-- `UNDEFINED_VALUE(w)` of P6, and the state with that draw counted. -/
def RvState.draw (p : RvState) (w : Nat) : BitVec w × RvState :=
  (Config.rvFree w p.draws, { p with draws := p.draws + 1 })

/-- The pc after an instruction of `len` bytes that does not write it (R58). -/
def RvState.advance (p : RvState) (len : DWord) : RvState := { p with pc := p.cut (p.pc + len) }

/-- Whether `v` may be a new pc (spec/45_riscv.md R628): bit 0 clear, and bit 1 clear without C. -/
def RvState.targetOk (p : RvState) (v : DWord) : Bool := !v.getLsbD 0 && (p.params.extC || !v.getLsbD 1)

/-- `pc <- v`, refused at a misaligned target (spec/45_riscv.md R628, D25). -/
def RvState.jump (p : RvState) (v : DWord) : Body RvState :=
  if p.targetOk v then .ok { p with pc := p.cut v } else .error (.refuses .rvMisalignedTarget)

/-- RV_ACCESS_FAULT(addr, n, kind) (spec/20_memory.md R120). -/
def RvState.accessFault (p : RvState) (kind : RvAccess) (a n : Nat) : Bool :=
  p.params.accessFaults.any fun f => f.kind == kind &&
    match f.size with
    | none => anyByte p.top a n (Region.has f.region)
    | some k => n == k && Region.has f.region (a % p.top)

/-- `M[a]` of `w` bits (spec/20_memory.md R120). -/
def RvState.load (w : Nat) (p : RvState) (a : Nat) : Except (Stop RvState) (BitVec w) :=
  if p.accessFault .load a (w / 8) then .error (.raises (.rvAccessFault .load a))
  else .ok (p.mem.read .little p.top w a)

/-- The bytes of an access and of the reservation overlap (spec/92_eei_decisions.md D22). -/
def RvState.overlapsReservation (p : RvState) (a n : Nat) : Bool :=
  match p.reservation with
  | none => false
  | some r => anyByte p.top a n fun b => anyByte p.top r.addr r.size fun c => b == c

/-- A store that overlaps the reservation is refused (R61, D22), unless the parameter `unsettled` says that it
completes. -/
def RvState.storeSettled (p : RvState) (a n : Nat) (body : Body RvState) : Body RvState :=
  if p.params.unsettled = .refuse ∧ p.overlapsReservation a n then .error (.refuses .rvReservedStore) else body

/-- A store that overlaps the reservation and completes ends it or not, which the pages do not settle: a free choice
(notes/assumptions/31.md). -/
def RvState.afterStore (p : RvState) (a n : Nat) : RvState :=
  if p.overlapsReservation a n then
    let d := p.draw 1
    { d.2 with reservation := if d.1 = 1#1 then none else p.reservation }
  else p

/-- The bytes of `M[a]` written, and remembered as stored (spec/20_memory.md R120, R127). -/
def RvState.put (p : RvState) (a : Nat) (v : BitVec w) : RvState :=
  { p with mem := p.mem.write .little p.top w a v, stored := p.stored.addRange p.top a (w / 8) }

/-- `M[a] = v` (spec/20_memory.md R120; spec/10_state.md R61). -/
def RvState.store (p : RvState) (a : Nat) (v : BitVec w) : Body RvState :=
  p.storeSettled a (w / 8)
    (if p.accessFault .store a (w / 8) then .error (.raises (.rvAccessFault .store a))
     else .ok ((p.put a v).afterStore a (w / 8)))

/-- One P6 instruction of `len` bytes that exists when `present`, and does not write the pc. -/
def rvDo (present : RvParams → Bool) (len : DWord) (body : RvState → Body RvState) (s : State) : Result :=
  if present s.rv.params then finish s (fun p => { s with rv := p.advance len }) (body s.rv)
  else .refused .rvNotConfigured

/-- One P6 instruction that exists when `present` and writes the pc itself. -/
def rvJumpDo (present : RvParams → Bool) (body : RvState → Body RvState) (s : State) : Result :=
  if present s.rv.params then finish s (fun p => { s with rv := p }) (body s.rv)
  else .refused .rvNotConfigured

/-- The mode of an MPP value, if the part has it (R59; spec/45_riscv.md R643). That supervisor mode is there when RV_EXT
holds priv-S is the model's choice (notes/assumptions/47.md). -/
def RvState.modeOf (p : RvState) (mpp : BitVec 2) : Option RvPriv :=
  if mpp = 0#2 then (if p.params.userMode then some .user else none)
  else if mpp = 1#2 then (if p.params.privS then some .supervisor else none)
  else if mpp = 3#2 then some .machine
  else none

/-- RETURN FROM EXCEPTION, machine (spec/45_riscv.md R643, R645, R628). -/
def rvReturnMachine (p : RvState) : Body RvState :=
  if p.priv ≠ .machine then .error (.refuses .rvPrivilege)
  else
    match p.modeOf p.mpp with
    | none => .error (.refuses .rvBadMpp)
    | some m =>
      match p.jump p.mepc with
      | .ok q =>
        .ok { q with priv := m, mie := p.mpie, mpie := true, mpp := if p.params.userMode then 0#2 else p.mpp }
      | .error e => .error e

/-- RETURN FROM EXCEPTION, supervisor (spec/45_riscv.md R644, R645, R628). -/
def rvReturnSupervisor (p : RvState) : Body RvState :=
  if p.priv = .user then .error (.refuses .rvPrivilege)
  else
    match p.jump p.sepc with
    | .ok q =>
      .ok { q with priv := if p.spp = 1#1 then .supervisor else .user, sie := p.spie, spie := true, spp := 0#1 }
    | .error e => .error e

end Sys2Proof.Machine
end

