-- ==== Sys2Proof/Machine/Flags.lean ====
section
/-! DEFINITION. Every flag computation the spec gives, as functions of the operands and the result: P1
(spec/40_ia32.md R252), P2 (spec/41_arm.md R331, R332), P3 (spec/42_powerpc.md R391), P4 (spec/43_sparc.md R454, R456,
R462). -/

namespace Sys2Proof.Machine

/-! ### Carries, borrows, overflows -/

/-- `a + b + c >= 2^w` as unsigned integers. -/
def carryFrom (a b : BitVec w) (c : Bool) : Bool := decide (2 ^ w ≤ a.toNat + b.toNat + c.toNat)

/-- The sum modulo 2^w. -/
def addWith (a b : BitVec w) (c : Bool) : BitVec w := a + b + (BitVec.ofBool c).setWidth w

/-- The signed sum is outside the range of w bits: the operands have one sign and the result `r` the other. -/
def overflowAdd (a b r : BitVec w) : Bool := (a.msb == b.msb) && (r.msb != a.msb)

/-- `a < b` as unsigned integers. -/
def borrowFrom (a b : BitVec w) : Bool := decide (a.toNat < b.toNat)

/-- The signed difference is outside the range of w bits: the operands differ in sign and the result `r` from `a`. -/
def overflowSub (a b r : BitVec w) : Bool := (a.msb != b.msb) && (r.msb != a.msb)

/-! ### P1 -/

/-- PF: the low byte has an even number of 1 bits (R252). -/
def parity (r : BitVec w) : Bool :=
  !(r.getLsbD 0 ^^ r.getLsbD 1 ^^ r.getLsbD 2 ^^ r.getLsbD 3 ^^ r.getLsbD 4 ^^ r.getLsbD 5 ^^ r.getLsbD 6
    ^^ r.getLsbD 7)

/-- AF of an addition: the carry out of bit 3 (R252). -/
def auxCarry (a b : BitVec w) (c : Bool) : Bool := decide (16 ≤ a.toNat % 16 + b.toNat % 16 + c.toNat)

/-- The flags of `a + b + c` (R252). -/
def x86AddFlags (a b : BitVec w) (c : Bool) : X86Flags where
  cf := carryFrom a b c
  pf := parity (addWith a b c)
  af := auxCarry a b c
  zf := addWith a b c == 0
  sf := (addWith a b c).msb
  ovf := overflowAdd a b (addWith a b c)

/-- The flags of a logical result: OF = CF = 0, SF, ZF, PF of the result, AF any value (R252, R265). -/
def x86LogicFlags (r : BitVec w) (af : Bool) : X86Flags where
  cf := false
  pf := parity r
  af := af
  zf := r == 0
  sf := r.msb
  ovf := false

/-- SHRD's result for a count below the size (R278). -/
def shrdValue (dest src : BitVec w) (count : Nat) : BitVec w := (dest >>> count) ||| (src <<< (w - count))

/-- SHRD's flags for a count of at least 1 and below the size (R278): CF is the last bit shifted out; OF is a sign
change for a count of 1 and the free bit otherwise; AF is the free bit. -/
def shrdFlags (dest src : BitVec w) (count : Nat) (freeOf freeAf : Bool) : X86Flags where
  cf := dest.getLsbD (count - 1)
  pf := parity (shrdValue dest src count)
  af := freeAf
  zf := shrdValue dest src count == 0
  sf := (shrdValue dest src count).msb
  ovf := if count = 1 then (shrdValue dest src count).msb ^^ dest.msb else freeOf

/-- Six flags from six free bits (R278, count at least the size). -/
def x86FreeFlags (v : BitVec 6) : X86Flags where
  cf := v.getLsbD 0
  pf := v.getLsbD 1
  af := v.getLsbD 2
  zf := v.getLsbD 3
  sf := v.getLsbD 4
  ovf := v.getLsbD 5

/-! ### P2 -/

/-- `ConditionPassed(cond)` (R331). -/
def ArmState.passes (a : ArmState) : ArmCond → Bool
  | .eq => a.z
  | .ne => !a.z
  | .cs => a.c
  | .cc => !a.c
  | .mi => a.n
  | .pl => !a.n
  | .vs => a.v
  | .vc => !a.v
  | .hi => a.c && !a.z
  | .ls => !a.c || a.z
  | .ge => a.n == a.v
  | .lt => a.n != a.v
  | .gt => !a.z && a.n == a.v
  | .le => a.z || a.n != a.v
  | .al => true

/-- N and Z of a result, with the C and V that the instruction gives. -/
def ArmState.setResultFlags (a : ArmState) (r : Word) (c v : Bool) : ArmState := a.setNZCV r.msb (r == 0) c v

/-! ### P3 -/

/-- CR0 from a result, SO as XER holds it now (R391). -/
def PpcState.setCr0 (p : PpcState) (r : Word) : PpcState :=
  { p with cr := putBit (putBit (putBit (putBit p.cr 31 r.msb) 30 (!r.msb && r != 0)) 29 (r == 0)) 28 p.so }

/-- CR0 written when Rc = 1 (R391). -/
def PpcState.record (p : PpcState) (rc : Bool) (r : Word) : PpcState := if rc then p.setCr0 r else p

/-- CA of the sum `a + b + c`, and OV and SO when OE = 1 (R391). -/
def PpcState.setXerSum (p : PpcState) (a b : Word) (c oe : Bool) : PpcState :=
  let ov := overflowAdd a b (addWith a b c)
  let x := putBit p.xer 29 (carryFrom a b c)
  { p with xer := if oe then putBit (putBit x 30 ov) 31 (p.so || ov) else x }

/-! ### P4 -/

/-- ADDcc's icc (R454). -/
def SparcState.setIccAdd (p : SparcState) (a b : Word) : SparcState :=
  let r := a + b
  p.setIcc r.msb (r == 0) ((a.msb && b.msb && !r.msb) || (!a.msb && !b.msb && r.msb))
    ((a.msb && b.msb) || (!r.msb && (a.msb || b.msb)))

/-- SUBcc's icc (R456). -/
def SparcState.setIccSub (p : SparcState) (a b : Word) : SparcState :=
  let r := a - b
  p.setIcc r.msb (r == 0) ((a.msb && !b.msb && !r.msb) || (!a.msb && b.msb && r.msb))
    ((!a.msb && b.msb) || (r.msb && (!a.msb || b.msb)))

/-- The icc test of a Bicc condition (R462). -/
def SparcState.taken (p : SparcState) : SparcCond → Bool
  | .n => false
  | .e => p.z
  | .le => p.z || (p.n ^^ p.v)
  | .l => p.n ^^ p.v
  | .leu => p.c || p.z
  | .cs => p.c
  | .neg => p.n
  | .vs => p.v
  | .a => true
  | .ne => !p.z
  | .g => !(p.z || (p.n ^^ p.v))
  | .ge => !(p.n ^^ p.v)
  | .gu => !(p.c || p.z)
  | .cc => !p.c
  | .pos => !p.n
  | .vc => !p.v

end Sys2Proof.Machine
end

