-- ==== Sys2Proof/Machine/Operands.lean ====
section
/-! DEFINITION. Every operand form the spec gives: P1 effective addresses, default segments and r/m operands
(spec/30_encoding.md R154 to R159); P2 shifter operands and LDR addressing (spec/41_arm.md R333 to R335;
spec/30_encoding.md R168); P3 `(rA|0)`, ROTL and MASK (spec/42_powerpc.md R392, R403); P4 operand2 (spec/43_sparc.md
R451); P6 shift amounts (spec/45_riscv.md R612). -/

namespace Sys2Proof.Machine

/-! ### P1: memory operands -/

/-- A 32-bit operand's displacement, sign-extended (R154). -/
def dispValue32 : X86Disp32 → Word
  | .none => 0
  | .d8 v => v.signExtend 32
  | .d32 v => v

/-- A 16-bit operand's displacement, sign-extended (R156). -/
def dispValue16 : X86Disp16 → BitVec 16
  | .none => 0
  | .d8 v => v.signExtend 16
  | .d16 v => v

/-- The scaled index of a SIB byte; index 4 means none (R155). -/
def X86State.indexValue (x : X86State) (scale : BitVec 2) (index : BitVec 3) : Word :=
  if index = 4#3 then 0 else x.gpr32 index <<< scale.toNat

/-- The register sum of a 16-bit r/m (R156). -/
def X86State.sum16 (x : X86State) (rm : BitVec 3) : BitVec 16 :=
  let bx := x.readReg 16 3
  let bp := x.readReg 16 5
  let si := x.readReg 16 6
  let di := x.readReg 16 7
  if rm = 0 then bx + si else if rm = 1 then bx + di else if rm = 2 then bp + si else if rm = 3 then bp + di
  else if rm = 4 then si else if rm = 5 then di else if rm = 6 then bp else bx

/-- The effective address (R154 to R156): modulo 2^32, or modulo 2^16 and zero-extended. -/
def X86State.ea (x : X86State) : X86Mem → Word
  | .disp32 v => v
  | .base32 r d => x.gpr32 r + dispValue32 d
  | .sib scale index base d => x.gpr32 base + x.indexValue scale index + dispValue32 d
  | .sibNoBase scale index v => x.indexValue scale index + v
  | .disp16 v => v.setWidth 32
  | .base16 rm d => (x.sum16 rm + dispValue16 d).setWidth 32

/-- The default segment: SS for a base of ESP, EBP or BP, else DS (R157). -/
def defaultSeg : X86Mem → X86Sreg
  | .disp32 _ => .ds
  | .base32 r _ => if r = 5#3 then .ss else .ds
  | .sib _ _ base _ => if base = 4#3 ∨ base = 5#3 then .ss else .ds
  | .sibNoBase _ _ _ => .ds
  | .disp16 _ => .ds
  | .base16 rm _ => if rm = 2#3 ∨ rm = 3#3 ∨ rm = 6#3 then .ss else .ds

/-- The segment of a memory operand: an override prefix replaces the default (R157, R158). -/
def X86State.segOf (x : X86State) (m : X86Mem) : X86Sreg := x.pfx.seg.getD (defaultSeg m)

/-- The segment of a moffs operand (R157). -/
def X86State.moffsSeg (x : X86State) : X86Sreg := x.pfx.seg.getD .ds

/-- The offset of a moffs operand, cut to `AddressSize` bits (spec/20_memory.md R103; spec/40_ia32.md R267). -/
def X86State.moffs (x : X86State) (off : BitVec 32) : Word :=
  if x.addr32 then off else (off.setWidth 16).setWidth 32

/-- `ReadRM(w)` (spec/40_ia32.md R251). -/
def X86State.readRM (w : Nat) (x : X86State) : X86RM → Except (Stop X86State) (BitVec w)
  | .reg n => .ok (x.readReg w n)
  | .mem m => x.readSeg w (x.segOf m) (x.ea m) .read

/-- `WriteRM(w, v)` (spec/40_ia32.md R251). -/
def X86State.writeRM (x : X86State) (rm : X86RM) (v : BitVec w) : Body X86State :=
  match rm with
  | .reg n => .ok (x.writeReg n v)
  | .mem m => x.writeSeg (x.segOf m) (x.ea m) .write v

/-- The check of a write to an r/m operand of `w` bits that stores nothing (spec/40_ia32.md R280, D17). -/
def X86State.checkWriteRM (w : Nat) (x : X86State) : X86RM → Body X86State
  | .reg _ => .ok x
  | .mem m =>
    match x.xseg (x.segOf m) (x.ea m) (w / 8) .write with
    | .ok _ => .ok x
    | .error e => .error (.raises (.x86 e))

/-- What a form of width `OperandSize` does (R158): `f` at 32 or at 16 bits. -/
def X86State.atOpSize (x : X86State) (f : Nat → Body X86State) : Body X86State := if x.op32 then f 32 else f 16

/-- An immediate of `OperandSize` bits (spec/40_ia32.md R265, R270: at 32 bits it is the whole field). -/
def immOp (w : Nat) (imm : BitVec 32) : BitVec w := imm.setWidth w

/-- An 8-bit immediate sign-extended to the operand (R159, D10). -/
def immSext (w : Nat) (imm : BitVec 8) : BitVec w := imm.signExtend w

/-- POP's write address falls under X86_POP_WRAP_LOC (spec/40_ia32.md R289): a 16-bit stack, ESP as the base, and the
stack pointer wrapping past 0xFFFF in this POP of `n` bytes. -/
def X86State.popWraps (x : X86State) (m : X86Mem) (n : Nat) : Bool :=
  match m with
  | .sib _ _ base _ => !x.stack32 && base == 4#3 && decide (0x10000 ≤ x.sp.toNat + n)
  | _ => false

/-- X86_POP_WRAP_LOC (spec/40_ia32.md R289): the segment and offset that the POP writes at, and the state with what was
drawn (notes/assumptions/13.md). -/
def X86State.wrapLoc (x : X86State) (m : X86Mem) : (X86Sreg × Word) × X86State :=
  match x.params.popWrap with
  | .computed => ((x.segOf m, x.ea m), x)
  | .lies g off => ((g, off), x)
  | .anywhere => (Config.x86PopWrap x.draws (x.segOf m) (x.ea m), { x with draws := x.draws + 1 })

/-! ### P2: shifter operands -/

/-- The immediate operand and its carry-out (R335). -/
def ArmState.opImm (a : ArmState) (rot : BitVec 4) (imm : BitVec 8) : Word × Bool :=
  let v := (imm.setWidth 32).rotateRight (2 * rot.toNat)
  (v, if rot = 0 then a.c else v.msb)

/-- `Rm, LSL #shift_imm` and its carry-out (R333). -/
def ArmState.opLsl (a : ArmState) (sh : BitVec 5) (rm : BitVec 4) : Word × Bool :=
  let v := a.readReg rm
  if sh = 0 then (v, a.c) else (v <<< sh.toNat, v.getLsbD (32 - sh.toNat))

/-- `Rm, LSR #shift_imm` and its carry-out; 0 encodes a shift by 32 (R334). -/
def ArmState.opLsr (a : ArmState) (sh : BitVec 5) (rm : BitVec 4) : Word × Bool :=
  let v := a.readReg rm
  if sh = 0 then (0, v.msb) else (v >>> sh.toNat, v.getLsbD (sh.toNat - 1))

/-- The base of an LDR plus or minus its offset (R168). -/
def ldrIndexed (base off : Word) (up : Bool) : Word := if up then base + off else base - off

/-- The address an LDR accesses (R168): the base itself when post-indexed. -/
def ldrAddress (mode : ArmIndex) (base indexed : Word) : Word :=
  match mode with
  | .offset | .pre => indexed
  | .post => base

/-- Pre- and post-indexed addressing write the base back (R168). -/
def ldrWritesBack : ArmIndex → Bool
  | .offset => false
  | .pre | .post => true

/-- The register offset of an LDR: `R[Rm] << shift_imm` (R168). -/
def ArmState.ldrOffset (a : ArmState) (sh : BitVec 5) (rm : BitVec 4) : Word := a.readReg rm <<< sh.toNat

/-- One P2 instruction (R330): nothing but the next instruction when its condition fails. -/
def armDo (cond : ArmCond) (body : ArmState → Body ArmState) (s : State) : Result :=
  if s.arm.passes cond then finish s (fun a => { s with arm := a }) (body s.arm)
  else .next { s with arm := s.arm.advance }

/-! ### P3 -/

/-- `(rA|0)`: the constant 0 when the rA field is 0 (R392). -/
def PpcState.regOr0 (p : PpcState) (rA : BitVec 5) : Word := if rA = 0 then 0 else p.reg rA

/-- Whether bit {i} is in `MASK(MB, ME)`, the mask wrapping when MB > ME (R403). -/
def inMask (mb me i : Nat) : Bool :=
  if mb ≤ me then decide (mb ≤ i ∧ i ≤ me) else decide (mb ≤ i ∨ i ≤ me)

/-- `MASK(MB, ME)` (R403): bit {i} is bit 31 − i. -/
def ppcMask (mb me : BitVec 5) : Word :=
  (List.range 32).foldl (fun m i => if inMask mb.toNat me.toNat (31 - i) then m ||| (1#32 <<< i) else m) 0

/-- `ROTL(x, n)` (R403). -/
def rotl (v : Word) (n : BitVec 5) : Word := v.rotateLeft n.toNat

/-- CTR after the decrement that BO{2} = 0 asks for (R400; BO{i} is bit 4 − i of the field). -/
def PpcState.ctrAfter (p : PpcState) (bo : BitVec 5) : Word := if bo.getLsbD 2 then p.ctr else p.ctr - 1

/-- `ctr_ok & cond_ok` (R400, R401). -/
def PpcState.branches (p : PpcState) (bo bi : BitVec 5) : Bool :=
  (bo.getLsbD 2 || ((p.ctrAfter bo != 0) ^^ bo.getLsbD 1)) && (bo.getLsbD 4 || (p.crBit bi == bo.getLsbD 3))

/-! ### P4 -/

/-- operand2 (R451). -/
def SparcState.op2 (p : SparcState) : SparcOp2 → Word
  | .reg rs2 => p.reg rs2
  | .imm v => v.signExtend 32

/-- The shift count: the low five bits of r[rs2] or of simm13 (R457). -/
def SparcState.count (p : SparcState) (o : SparcOp2) : Nat := (p.op2 o).toNat % 32

/-! ### P6 -/

/-- The effective address of a load or store (spec/45_riscv.md section 2): modulo 2^XLEN. -/
def RvState.ea (p : RvState) (rs1 : BitVec 5) (off : BitVec 12) : Nat :=
  (p.reg p.xlen rs1 + off.signExtend p.xlen).toNat

/-- The shift amount of a register: five bits, or six for RV64 (R612, R616). -/
def RvState.amount (p : RvState) (rs2 : BitVec 5) : Nat := (p.reg p.xlen rs2).toNat % p.xlen

/-- The byte offset of bne: `off` is offset[12:1] (spec/30_encoding.md R222). -/
def rvBranchOffset (off : BitVec 12) : DWord := (off.signExtend 64) <<< 1

end Sys2Proof.Machine
end

