-- ==== Sys2Proof/Machine/Arm.lean ====
section
/-! DEFINITION. The meanings of P2 (spec/41_arm.md): data processing (R336 to R348), LDR (R350, R352), B, BL, BX (R355
to R358). -/

namespace Sys2Proof.Machine

/-- The result of a data-processing instruction (R336): to R15 it is a branch, with `CPSR = SPSR` when S = 1; to any
other register it is a write, with the flags `set` when S = 1. -/
def armResult (s : Bool) (rd : BitVec 4) (r : Word) (set : ArmState → ArmState) (a : ArmState) : Body ArmState :=
  if rd = 15#4 then
    if s then (if a.hasSpsr then (armReturn a).branchTo r else .error (.refuses .armNoSpsr))
    else a.branchTo r
  else .ok (((if s then set a else a).setReg rd r).advance)

/-- MOV (R340): C is the shifter's carry-out, V stays. -/
def armMov (s : Bool) (rd : BitVec 4) (o : Word × Bool) (a : ArmState) : Body ArmState :=
  armResult s rd o.1 (fun b => b.setResultFlags o.1 o.2 b.v) a

/-- ORR (R348): C is the shifter's carry-out, V stays. -/
def armOrr (s : Bool) (rn rd : BitVec 4) (o : Word × Bool) (a : ArmState) : Body ArmState :=
  let r := a.readReg rn ||| o.1
  armResult s rd r (fun b => b.setResultFlags r o.2 b.v) a

/-- ADD (R342). -/
def armAdd (s : Bool) (rn rd : BitVec 4) (o : Word × Bool) (a : ArmState) : Body ArmState :=
  let x := a.readReg rn
  let r := x + o.1
  armResult s rd r (fun b => b.setResultFlags r (carryFrom x o.1 false) (overflowAdd x o.1 r)) a

/-- ADC (R344): the C flag read is the one before. -/
def armAdc (s : Bool) (rn rd : BitVec 4) (o : Word × Bool) (a : ArmState) : Body ArmState :=
  let x := a.readReg rn
  let r := addWith x o.1 a.c
  armResult s rd r (fun b => b.setResultFlags r (carryFrom x o.1 a.c) (overflowAdd x o.1 r)) a

/-- SUB (R346): C means no borrow. -/
def armSub (s : Bool) (rn rd : BitVec 4) (o : Word × Bool) (a : ArmState) : Body ArmState :=
  let x := a.readReg rn
  let r := x - o.1
  armResult s rd r (fun b => b.setResultFlags r (!borrowFrom x o.1) (overflowSub x o.1 r)) a

/-- SUB with an immediate operand (R346, R335). -/
def execArmSubImm (cond : ArmCond) (s : Bool) (rn rd rot : BitVec 4) (imm : BitVec 8) (m : State) : Result :=
  armDo cond (fun a => armSub s rn rd (a.opImm rot imm) a) m

/-- SUB with `Rm, LSL #shift_imm` (R346, R333). -/
def execArmSubLsl (cond : ArmCond) (s : Bool) (rn rd : BitVec 4) (sh : BitVec 5) (rm : BitVec 4) (m : State) :
    Result :=
  armDo cond (fun a => armSub s rn rd (a.opLsl sh rm) a) m

/-- SUB with `Rm, LSR #shift_imm` (R346, R334). -/
def execArmSubLsr (cond : ArmCond) (s : Bool) (rn rd : BitVec 4) (sh : BitVec 5) (rm : BitVec 4) (m : State) :
    Result :=
  armDo cond (fun a => armSub s rn rd (a.opLsr sh rm) a) m

/-- ADD with an immediate operand (R342, R335). -/
def execArmAddImm (cond : ArmCond) (s : Bool) (rn rd rot : BitVec 4) (imm : BitVec 8) (m : State) : Result :=
  armDo cond (fun a => armAdd s rn rd (a.opImm rot imm) a) m

/-- ADD with `Rm, LSL #shift_imm` (R342, R333). -/
def execArmAddLsl (cond : ArmCond) (s : Bool) (rn rd : BitVec 4) (sh : BitVec 5) (rm : BitVec 4) (m : State) :
    Result :=
  armDo cond (fun a => armAdd s rn rd (a.opLsl sh rm) a) m

/-- ADD with `Rm, LSR #shift_imm` (R342, R334). -/
def execArmAddLsr (cond : ArmCond) (s : Bool) (rn rd : BitVec 4) (sh : BitVec 5) (rm : BitVec 4) (m : State) :
    Result :=
  armDo cond (fun a => armAdd s rn rd (a.opLsr sh rm) a) m

/-- ADC with an immediate operand (R344, R335). -/
def execArmAdcImm (cond : ArmCond) (s : Bool) (rn rd rot : BitVec 4) (imm : BitVec 8) (m : State) : Result :=
  armDo cond (fun a => armAdc s rn rd (a.opImm rot imm) a) m

/-- ADC with `Rm, LSL #shift_imm` (R344, R333). -/
def execArmAdcLsl (cond : ArmCond) (s : Bool) (rn rd : BitVec 4) (sh : BitVec 5) (rm : BitVec 4) (m : State) :
    Result :=
  armDo cond (fun a => armAdc s rn rd (a.opLsl sh rm) a) m

/-- ADC with `Rm, LSR #shift_imm` (R344, R334). -/
def execArmAdcLsr (cond : ArmCond) (s : Bool) (rn rd : BitVec 4) (sh : BitVec 5) (rm : BitVec 4) (m : State) :
    Result :=
  armDo cond (fun a => armAdc s rn rd (a.opLsr sh rm) a) m

/-- ORR with an immediate operand (R348, R335). -/
def execArmOrrImm (cond : ArmCond) (s : Bool) (rn rd rot : BitVec 4) (imm : BitVec 8) (m : State) : Result :=
  armDo cond (fun a => armOrr s rn rd (a.opImm rot imm) a) m

/-- ORR with `Rm, LSL #shift_imm` (R348, R333). -/
def execArmOrrLsl (cond : ArmCond) (s : Bool) (rn rd : BitVec 4) (sh : BitVec 5) (rm : BitVec 4) (m : State) :
    Result :=
  armDo cond (fun a => armOrr s rn rd (a.opLsl sh rm) a) m

/-- ORR with `Rm, LSR #shift_imm` (R348, R334). -/
def execArmOrrLsr (cond : ArmCond) (s : Bool) (rn rd : BitVec 4) (sh : BitVec 5) (rm : BitVec 4) (m : State) :
    Result :=
  armDo cond (fun a => armOrr s rn rd (a.opLsr sh rm) a) m

/-- MOV with an immediate operand (R340, R335). -/
def execArmMovImm (cond : ArmCond) (s : Bool) (rd rot : BitVec 4) (imm : BitVec 8) (m : State) : Result :=
  armDo cond (fun a => armMov s rd (a.opImm rot imm) a) m

/-- MOV with `Rm, LSL #shift_imm` (R340, R333). -/
def execArmMovLsl (cond : ArmCond) (s : Bool) (rd : BitVec 4) (sh : BitVec 5) (rm : BitVec 4) (m : State) :
    Result :=
  armDo cond (fun a => armMov s rd (a.opLsl sh rm) a) m

/-- MOV with `Rm, LSR #shift_imm` (R340, R334). -/
def execArmMovLsr (cond : ArmCond) (s : Bool) (rd : BitVec 4) (sh : BitVec 5) (rm : BitVec 4) (m : State) :
    Result :=
  armDo cond (fun a => armMov s rd (a.opLsr sh rm) a) m

/-- The state that a Data Abort of an LDR leaves (R352): Rn is unchanged, or, when the mode writes the base back, it may
be the updated base (a free choice, notes/assumptions/25.md). -/
def ArmState.aborted (a : ArmState) (mode : ArmIndex) (rn : BitVec 4) (indexed : Word) : ArmState :=
  if ldrWritesBack mode then
    if (a.draw 1).1 = 1#1 then (a.draw 1).2.setReg rn indexed else (a.draw 1).2
  else a

/-- The rotated word that an LDR at `address` loads (R350; spec/20_memory.md R110, R111). -/
def ArmState.loaded (a : ArmState) (address : Word) : Word :=
  (a.mem.read a.params.order top32 32 (address &&& 0xFFFFFFFC#32).toNat).rotateRight
    (8 * (address.extractLsb' 0 2).toNat)

/-- LDR with offset `off` (R350). -/
def armLdr (mode : ArmIndex) (up : Bool) (rn rd : BitVec 4) (off : Word) (a : ArmState) : Body ArmState :=
  let indexed := ldrIndexed (a.readReg rn) off up
  let address := ldrAddress mode (a.readReg rn) indexed
  if ldrWritesBack mode ∧ rd = rn then .error (.refuses .armWritebackRd)
  else if ldrWritesBack mode ∧ rn = 15#4 then .error (.refuses .armWritebackPc)
  else if a.params.alignCheck ∧ address.extractLsb' 0 2 ≠ 0#2 then .error (.raises (.armAlignment address))
  else if inRegions a.params.aborts address.toNat then
    .error (.raisesLeaving (.armDataAbort address) (a.aborted mode rn indexed))
  else
    let b := if ldrWritesBack mode then a.setReg rn indexed else a
    if rd = 15#4 then b.branchTo (a.loaded address) else .ok ((b.setReg rd (a.loaded address)).advance)

/-- LDR with an immediate offset (R350; spec/30_encoding.md R168). -/
def execArmLdrImm (cond : ArmCond) (mode : ArmIndex) (up : Bool) (rn rd : BitVec 4) (off : BitVec 12) (m : State) :
    Result :=
  armDo cond (armLdr mode up rn rd (off.setWidth 32)) m

/-- LDR with a register offset (R350; spec/30_encoding.md R168). -/
def execArmLdrReg (cond : ArmCond) (mode : ArmIndex) (up : Bool) (rn rd : BitVec 4) (sh : BitVec 5) (rm : BitVec 4)
    (m : State) : Result :=
  armDo cond (fun a => armLdr mode up rn rd (a.ldrOffset sh rm) a) m

/-- The target of a branch as an integer: the instruction's address plus 8 plus four times the offset (R355). -/
def armTargetInt (pc : Word) (off : BitVec 24) : Int := (pc.toNat : Int) + 8 + 4 * off.toInt

/-- B and BL (R355, R356): refused when the integer target leaves the address space. -/
def armBranch (link : Bool) (off : BitVec 24) (a : ArmState) : Body ArmState :=
  if armTargetInt a.pc off < 0 ∨ (top32 : Int) ≤ armTargetInt a.pc off then .error (.refuses .armBranchWrap)
  else
    let b := if link then a.setReg 14 (a.pc + 4) else a
    .ok (b.setReg 15 (a.pc + 8#32 + (off.signExtend 32 <<< 2)))

/-- B (R355). -/
def execArmB (cond : ArmCond) (off : BitVec 24) (m : State) : Result := armDo cond (armBranch false off) m

/-- BL (R356). -/
def execArmBl (cond : ArmCond) (off : BitVec 24) (m : State) : Result := armDo cond (armBranch true off) m

/-- BX (R358): UNDEFINED on architecture v4, after the condition is tested (D21). -/
def armBx (rm : BitVec 4) (a : ArmState) : Body ArmState :=
  let v := a.readReg rm
  if ¬ a.params.v4T then .error (.raises .armUndefined)
  else if ¬ v.getLsbD 0 ∧ v.getLsbD 1 then .error (.refuses .armBxBit1)
  else .ok ({ a with cpsr := putBit a.cpsr 5 (v.getLsbD 0) }.setReg 15 (v &&& 0xFFFFFFFE#32))

/-- BX (R358). -/
def execArmBx (cond : ArmCond) (rm : BitVec 4) (m : State) : Result := armDo cond (armBx rm) m

end Sys2Proof.Machine
end

