-- ==== Sys2Proof/Machine/Mips.lean ====
section
/-! DEFINITION. The meanings of P5 (spec/44_mips32.md R531 to R548). An assembler idiom has the meaning of the words it
writes. -/

namespace Sys2Proof.Machine

/-- ADDIU (R531). -/
def mipsAddiuBody (rt rs : BitVec 5) (imm : BitVec 16) (p : MipsState) : Body MipsState :=
  .ok (p.setReg rt (p.reg rs + imm.signExtend 32))

/-- ORI (R532). -/
def mipsOriBody (rt rs : BitVec 5) (imm : BitVec 16) (p : MipsState) : Body MipsState :=
  .ok (p.setReg rt (p.reg rs ||| imm.setWidth 32))

/-- ADDU (R534). -/
def mipsAdduBody (rd rs rt : BitVec 5) (p : MipsState) : Body MipsState :=
  .ok (p.setReg rd (p.reg rs + p.reg rt))

/-- MIPS_XLATE (spec/20_memory.md R117): the first range that holds the address, or the identity. -/
def mipsTranslate (l : List MipsXlate) (v : Word) : Except (Stop MipsState) Word :=
  match l.find? fun e => Region.has e.region v.toNat with
  | none => .ok v
  | some e =>
    match e.result with
    | .mapsTo pbase => .ok (pbase + (v - BitVec.ofNat 32 e.region.base))
    | .faults .addressError => .error (.raises (.mipsAddressError (some v)))
    | .faults f => .error (.raises (.mipsXlate f v))

/-- An LW at an unaligned address raises Address Error (spec/20_memory.md R118). -/
def MipsParams.trapsMisaligned (c : MipsParams) : Bool :=
  !(decide (c.release = .r6) && decide (c.misalign = .supported))

/-- LW at the virtual address `v` (R533): alignment, then translation, then the load. -/
def MipsState.loadWord (p : MipsState) (v : Word) : Except (Stop MipsState) Word :=
  if v.extractLsb' 0 2 ≠ 0#2 ∧ MipsParams.trapsMisaligned p.params then .error (.raises (.mipsAddressError (some v)))
  else
    match mipsTranslate p.params.xlate v with
    | .ok a => .ok (p.mem.read p.params.order top32 32 a.toNat)
    | .error e => .error e

/-- What a JR leaves pending (R540): the target, or the target without bit 0 and an ISAMode from it. -/
def MipsState.jrPending (p : MipsState) (rs : BitVec 5) : MipsPending :=
  if p.params.config3ISA = 0 ∧ p.params.config1CA = 0 then { target := p.reg rs, isa := none }
  else { target := p.reg rs &&& 0xFFFFFFFE#32, isa := some ((p.reg rs).extractLsb' 0 1) }

/-- The `n` low bits set. -/
def lowMask (n : Nat) : Word := BitVec.ofNat 32 (2 ^ n - 1)

/-- ADDIU (R531). -/
def execMipsAddiu (rt rs : BitVec 5) (imm : BitVec 16) (s : State) : Result := mipsDo (mipsAddiuBody rt rs imm) s

/-- ORI (R532). -/
def execMipsOri (rt rs : BitVec 5) (imm : BitVec 16) (s : State) : Result := mipsDo (mipsOriBody rt rs imm) s

/-- LW (R533). -/
def execMipsLw (rt : BitVec 5) (off : BitVec 16) (base : BitVec 5) (s : State) : Result :=
  mipsDo (fun p =>
    match p.loadWord (off.signExtend 32 + p.reg base) with
    | .ok v => .ok (p.setReg rt v)
    | .error e => .error e) s

/-- BNE (R536): the pending target is the fall-through address when the condition fails. -/
def execMipsBne (rs rt : BitVec 5) (off : BitVec 16) (s : State) : Result :=
  mipsTransferDo (fun p =>
    .ok { target := if p.reg rs ≠ p.reg rt then p.pc + 4#32 + (off.signExtend 32 <<< 2) else p.pc + 8, isa := none }) s

/-- ADDU (R534). -/
def execMipsAddu (rd rs rt : BitVec 5) (s : State) : Result := mipsDo (mipsAdduBody rd rs rt) s

/-- SLTU (R535). -/
def execMipsSltu (rd rs rt : BitVec 5) (s : State) : Result :=
  mipsDo (fun p => .ok (p.setReg rd (if p.reg rs < p.reg rt then 1#32 else 0#32))) s

/-- JR, pre-Release 6 encoding (R540); Reserved Instruction in Release 6 (spec/30_encoding.md R197). -/
def execMipsJrPre (rs : BitVec 5) (s : State) : Result :=
  if s.mips.params.release = .r6 then takeException .mipsReserved s
  else mipsTransferDo (fun p => .ok (p.jrPending rs)) s

/-- JR, Release 6 encoding (R540, R542); before Release 6 the word is JALR, refused (spec/30_encoding.md R197). -/
def execMipsJrR6 (rs : BitVec 5) (s : State) : Result :=
  if s.mips.params.release = .r6 then mipsTransferDo (fun p => .ok (p.jrPending rs)) s
  else .refused .mipsJalr

/-- EXT (R538). -/
def execMipsExt (rt rs msbd lsb : BitVec 5) (s : State) : Result :=
  mipsDo (fun p =>
    if p.params.release = .r1 then .error (.raises .mipsReserved)
    else if 31 < lsb.toNat + msbd.toNat then .error (.refuses .mipsExtRange)
    else .ok (p.setReg rt ((p.reg rs >>> lsb.toNat) &&& lowMask (msbd.toNat + 1)))) s

/-- INS (R539). -/
def execMipsIns (rt rs msb lsb : BitVec 5) (s : State) : Result :=
  mipsDo (fun p =>
    if p.params.release = .r1 then .error (.raises .mipsReserved)
    else if msb.toNat < lsb.toNat then .error (.refuses .mipsInsRange)
    else
      let m := lowMask (msb.toNat - lsb.toNat + 1) <<< lsb.toNat
      .ok (p.setReg rt ((p.reg rt &&& ~~~m) ||| ((p.reg rs <<< lsb.toNat) &&& m)))) s

/-- move d,s = addu d,s,$zero (spec/opcode_table.json's row; R546). -/
def execMipsMove (rd rs : BitVec 5) (s : State) : Result := mipsDo (mipsAdduBody rd rs 0) s

/-- li d,value = addiu d,$zero,value (R548). -/
def execMipsLiAddiu (rt : BitVec 5) (imm : BitVec 16) (s : State) : Result := mipsDo (mipsAddiuBody rt 0 imm) s

/-- li d,value = ori d,$zero,value (R548). -/
def execMipsLiOri (rt : BitVec 5) (imm : BitVec 16) (s : State) : Result := mipsDo (mipsOriBody rt 0 imm) s

end Sys2Proof.Machine
end

