-- ==== Sys2Proof/Machine/Ppc.lean ====
section
/-! DEFINITION. The meanings of P3 (spec/42_powerpc.md R392 to R408). A simplified mnemonic has the meaning of the words
it writes. -/

namespace Sys2Proof.Machine

/-- addi (R392). -/
def ppcAddiBody (rD rA : BitVec 5) (simm : BitVec 16) (p : PpcState) : Body PpcState :=
  .ok (p.setReg rD (p.regOr0 rA + simm.signExtend 32)).advance

/-- rD = a + b + c with the XER and CR0 updates of R391 (R398, R399). -/
def ppcSum (rD : BitVec 5) (a b : Word) (c oe rc : Bool) (p : PpcState) : Body PpcState :=
  .ok (((p.setReg rD (addWith a b c)).setXerSum a b c oe).record rc (addWith a b c)).advance

/-- rA written with a rotate's result, and CR0 when Rc = 1 (R402, R404). -/
def ppcRotated (rA : BitVec 5) (r : Word) (rc : Bool) (p : PpcState) : Body PpcState :=
  .ok ((p.setReg rA r).record rc r).advance

/-- A conditional branch to `target` (R400, R406): CTR counts down, LR is written when LK = 1 whether or not the branch
is taken. -/
def ppcBranch (bo bi : BitVec 5) (lk : Bool) (target : Word) (p : PpcState) : Body PpcState :=
  .ok { p with
    ctr := p.ctrAfter bo
    lr := if lk then p.cia + 4 else p.lr
    cia := if p.branches bo bi then target else p.cia + 4 }

/-- The target of bc: BD || 0b00 sign-extended, past CIA when AA = 0 (R400). -/
def PpcState.bcTarget (p : PpcState) (bd : BitVec 14) (aa : Bool) : Word :=
  if aa then bd.signExtend 32 <<< 2 else p.cia + (bd.signExtend 32 <<< 2)

/-- The target of bclr: LR{0-29} || 0b00 (R406). -/
def PpcState.lrTarget (p : PpcState) : Word := p.lr &&& 0xFFFFFFFC#32

/-- What mtspr with an SPR number outside Table 8-12 does (R395). -/
def PpcParams.mtsprOther (c : PpcParams) (n : BitVec 10) : PpcMtsprOther :=
  ((c.mtsprAt.find? fun e => e.1 == n).map fun e => e.2).getD c.mtsprElse

/-- mtspr (R394, R395). -/
def ppcMtsprBody (n : BitVec 10) (rS : BitVec 5) (p : PpcState) : Body PpcState :=
  if n = 1#10 then .ok { p with xer := p.reg rS }.advance
  else if n = 8#10 then .ok { p with lr := p.reg rS }.advance
  else if n = 9#10 then .ok { p with ctr := p.reg rS }.advance
  else if p.params.user then
    match PpcParams.mtsprOther p.params n with
    | .illegalInstruction => .error (.raises .ppcIllegal)
    | .supervisorInstruction => .error (.raises .ppcSupervisor)
    | .boundedlyUndefined => .error (.refuses .ppcBoundedlyUndefined)
  else .error (.refuses .ppcSupervisorSpr)

/-- addi (R392). -/
def execPpcAddi (rD rA : BitVec 5) (simm : BitVec 16) (s : State) : Result := ppcDo (ppcAddiBody rD rA simm) s

/-- li rD,value = addi rD,0,value (R392). -/
def execPpcLi (rD : BitVec 5) (simm : BitVec 16) (s : State) : Result := ppcDo (ppcAddiBody rD 0 simm) s

/-- bc, bca, bcl, bcla (R400). -/
def execPpcBc (bo bi : BitVec 5) (bd : BitVec 14) (aa lk : Bool) (s : State) : Result :=
  ppcDo (fun p => ppcBranch bo bi lk (p.bcTarget bd aa) p) s

/-- bclr, bclrl (R406): the target is that of LR before. -/
def execPpcBclr (bo bi : BitVec 5) (lk : Bool) (s : State) : Result :=
  ppcDo (fun p => ppcBranch bo bi lk p.lrTarget p) s

/-- blr = bclr 20,0 (R408). -/
def execPpcBlr (s : State) : Result := ppcDo (fun p => ppcBranch 20 0 false p.lrTarget p) s

/-- rlwimi, rlwimi. (R404). -/
def execPpcRlwimi (rA rS sh mb me : BitVec 5) (rc : Bool) (s : State) : Result :=
  ppcDo (fun p =>
    ppcRotated rA ((rotl (p.reg rS) sh &&& ppcMask mb me) ||| (p.reg rA &&& ~~~(ppcMask mb me))) rc p) s

/-- rlwinm, rlwinm. (R402). -/
def execPpcRlwinm (rA rS sh mb me : BitVec 5) (rc : Bool) (s : State) : Result :=
  ppcDo (fun p => ppcRotated rA (rotl (p.reg rS) sh &&& ppcMask mb me) rc p) s

/-- addc, addc., addco, addco. (R398). -/
def execPpcAddc (rD rA rB : BitVec 5) (oe rc : Bool) (s : State) : Result :=
  ppcDo (fun p => ppcSum rD (p.reg rA) (p.reg rB) false oe rc p) s

/-- addze, addze., addzeo, addzeo. (R399). -/
def execPpcAddze (rD rA : BitVec 5) (oe rc : Bool) (s : State) : Result :=
  ppcDo (fun p => ppcSum rD (p.reg rA) 0 p.ca oe rc p) s

/-- mtspr (R394). -/
def execPpcMtspr (spr : BitVec 10) (rS : BitVec 5) (s : State) : Result := ppcDo (ppcMtsprBody spr rS) s

/-- mtxer = mtspr 1 (R396). -/
def execPpcMtxer (rS : BitVec 5) (s : State) : Result := ppcDo (ppcMtsprBody 1 rS) s

/-- mtlr = mtspr 8 (R396). -/
def execPpcMtlr (rS : BitVec 5) (s : State) : Result := ppcDo (ppcMtsprBody 8 rS) s

/-- mtctr = mtspr 9 (R396). -/
def execPpcMtctr (rS : BitVec 5) (s : State) : Result := ppcDo (ppcMtsprBody 9 rS) s

/-- lwzu (R397): an invalid form with rA = 0 or rA = rD; an unaligned EA completes (D4). -/
def execPpcLwzu (rD rA : BitVec 5) (d : BitVec 16) (s : State) : Result :=
  ppcDo (fun p =>
    let ea := p.reg rA + d.signExtend 32
    if rA = 0 ∨ rA = rD then .error (.refuses .ppcInvalidForm)
    else if inRegions p.params.dsi ea.toNat then .error (.raises (.ppcDsi ea))
    else .ok ((p.setReg rD (p.mem.read .big top32 32 ea.toNat)).setReg rA ea).advance) s

end Sys2Proof.Machine
end

