-- ==== Sys2Proof/Machine/Riscv.lean ====
section
/-! DEFINITION. The meanings of P6 (spec/45_riscv.md R585 to R656). -/

namespace Sys2Proof.Machine

/-! ### Which configurations have an entry (spec/30_encoding.md R229) -/

/-- RV32I and RV64I. -/
def rvBase (_ : RvParams) : Bool := true
/-- RV64I only. -/
def rv64Only (c : RvParams) : Bool := c.rv64
/-- RV64M only. -/
def rv64M (c : RvParams) : Bool := c.rv64 && c.extM
/-- RV32A and RV64A. -/
def rvA (c : RvParams) : Bool := c.extA
/-- RV64A only. -/
def rv64A (c : RvParams) : Bool := c.rv64 && c.extA
/-- RV32IC and RV64IC. -/
def rvC (c : RvParams) : Bool := c.extC
/-- Privileged, machine mode. -/
def rvPrivM (c : RvParams) : Bool := c.privM
/-- Privileged, supervisor mode. -/
def rvPrivS (c : RvParams) : Bool := c.privS

/-! ### Shared forms -/

/-- `x[rd] <- v`. -/
def rvWrite (rd : BitVec 5) (v : BitVec n) (p : RvState) : Body RvState := .ok (p.setReg rd v)

/-- `x[rd] <- f x[rs1] x[rs2]` at XLEN bits. -/
def rvReg3 (f : (n : Nat) → BitVec n → BitVec n → BitVec n) (rd rs1 rs2 : BitVec 5) (p : RvState) : Body RvState :=
  rvWrite rd (f p.xlen (p.reg p.xlen rs1) (p.reg p.xlen rs2)) p

/-- `x[rd] <- f x[rs1] sext(imm)` at XLEN bits. -/
def rvRegImm (f : (n : Nat) → BitVec n → BitVec n → BitVec n) (rd rs1 : BitVec 5) (imm : BitVec 12) (p : RvState) :
    Body RvState :=
  rvWrite rd (f p.xlen (p.reg p.xlen rs1) (imm.signExtend p.xlen)) p

/-- A word result, sign-extended to 64 bits. -/
def rvWriteWord (rd : BitVec 5) (v : Word) (p : RvState) : Body RvState := rvWrite rd (v.signExtend 64) p

/-- A load of `w` bits, `ext` extending them to XLEN bits (R585 to R589). -/
def rvLoad (w : Nat) (ext : (n : Nat) → BitVec w → BitVec n) (rd : BitVec 5) (off : BitVec 12) (rs1 : BitVec 5)
    (p : RvState) : Body RvState :=
  match p.load w (p.ea rs1 off) with
  | .ok v => rvWrite rd (ext p.xlen v) p
  | .error e => .error e

/-- A store of the low `w` bits of x[rs2] (R592 to R594). -/
def rvStore (w : Nat) (rs2 : BitVec 5) (off : BitVec 12) (rs1 : BitVec 5) (p : RvState) : Body RvState :=
  p.store (p.ea rs1 off) (p.reg w rs2)

/-- 1 or 0 at any width. -/
def rvBool (n : Nat) (b : Bool) : BitVec n := (BitVec.ofBool b).setWidth n

/-- `a + b`. -/
def rvSum (n : Nat) (a b : BitVec n) : BitVec n := a + b
/-- `a | b`. -/
def rvUnion (n : Nat) (a b : BitVec n) : BitVec n := a ||| b
/-- `a <_s b`. -/
def rvLessSigned (n : Nat) (a b : BitVec n) : BitVec n := rvBool n (a.slt b)
/-- `a <_u b`. -/
def rvLessUnsigned (n : Nat) (a b : BitVec n) : BitVec n := rvBool n (a.ult b)

/-- bne (R627): no delay slot; the target of a taken branch is checked (R628). -/
def rvBneBody (rs1 rs2 : BitVec 5) (off : BitVec 12) (p : RvState) : Body RvState :=
  if p.reg p.xlen rs1 ≠ p.reg p.xlen rs2 then p.jump (p.cut (p.pc + rvBranchOffset off)) else .ok (p.advance 4)

/-- The address in x[rs1]. -/
def RvState.addr (p : RvState) (rs1 : BitVec 5) : Nat := (p.reg p.xlen rs1).toNat

/-- An atomic of `n` bytes at `a`: refused when misaligned (spec/20_memory.md R120, D6). -/
def rvAligned (a n : Nat) (body : Body RvState) : Body RvState :=
  if a % n = 0 then body else .error (.refuses .rvMisalignedAtomic)

/-- A load-reserved of `w` bits (R631, R632). -/
def rvLoadReserved (w : Nat) (rd rs1 : BitVec 5) (p : RvState) : Body RvState :=
  rvAligned (p.addr rs1) (w / 8)
    (match p.load w (p.addr rs1) with
     | .ok v => .ok { (p.setReg rd (v.signExtend p.xlen)) with reservation := some ⟨p.addr rs1, w / 8⟩ }
     | .error e => .error e)

/-- A word reservation inside the doubleword at `a` (R633, D22). -/
def RvReservation.wordInside (r : RvReservation) (a : Nat) : Bool :=
  r.size == 4 && (r.addr == a || r.addr == a + 4)

/-- Whether an sc.d at `a` succeeds, and the state with what was drawn (R633): a matching reservation, unless it may
fail; a word reservation inside the doubleword, where that is not refused, is a free choice (notes/assumptions/32.md). -/
def RvState.scSucceeds (p : RvState) (a : Nat) : Bool × RvState :=
  match p.reservation with
  | none => (false, p)
  | some r =>
    if r = ⟨a, 8⟩ then
      if p.params.scMayFail then ((p.draw 1).1 == 1#1, (p.draw 1).2) else (true, p)
    else if RvReservation.wordInside r a then ((p.draw 1).1 == 1#1, (p.draw 1).2)
    else (false, p)

/-- A nonzero error code: any nonzero value (R633). -/
def nonzero (v : BitVec n) : BitVec n := if v = 0 then 1 else v

/-- sc.d with a word reservation inside its doubleword is refused (R633, D22), unless the parameter `unsettled` says that
it completes. -/
def rvScSettled (a : Nat) (p : RvState) (body : Body RvState) : Body RvState :=
  if p.params.unsettled = .refuse ∧ p.reservation.any (fun r => RvReservation.wordInside r a) then
    .error (.refuses .rvWordReservation)
  else body

/-- sc.d (R633). -/
def rvScDBody (rd rs2 rs1 : BitVec 5) (p : RvState) : Body RvState :=
  rvAligned (p.addr rs1) 8 <| rvScSettled (p.addr rs1) p
    (let q := (p.scSucceeds (p.addr rs1)).2
     if (p.scSucceeds (p.addr rs1)).1 then
       if p.accessFault .store (p.addr rs1) 8 then .error (.raises (.rvAccessFault .store (p.addr rs1)))
       else .ok { ((q.put (p.addr rs1) (p.reg 64 rs2)).setReg rd 0#64) with reservation := none }
     else .ok { ((q.draw 64).2.setReg rd (nonzero (q.draw 64).1)) with reservation := none })

/-- amoadd.d (R634): one indivisible step. -/
def rvAmoaddDBody (rd rs2 rs1 : BitVec 5) (p : RvState) : Body RvState :=
  rvAligned (p.addr rs1) 8
    (match p.load 64 (p.addr rs1) with
     | .error e => .error e
     | .ok t =>
       match p.store (p.addr rs1) (t + p.reg 64 rs2) with
       | .ok q => .ok (q.setReg rd t)
       | .error e => .error e)

/-- A shift-immediate: an illegal instruction unless `legal` (spec/60_exceptions.md R720). -/
def rvShift (legal : RvState → Bool) (body : RvState → Body RvState) (p : RvState) : Body RvState :=
  if legal p then body p else .error (.raises .rvIllegal)

/-- slli and srli: shamt[5] = 0 on RV32 (R613, R617). -/
def shamtFits (shamt : BitVec 6) (p : RvState) : Bool := p.params.rv64 || !shamt.getLsbD 5

/-- slliw and srliw: shamt[5] = 0 (R614, R618). -/
def shamtFitsWord (shamt : BitVec 6) (_ : RvState) : Bool := !shamt.getLsbD 5

/-- The low word of a register (R599 and the word forms). -/
def RvState.word (p : RvState) (i : BitVec 5) : Word := p.reg 32 i

/-- A remainder by zero is refused (R624, D28), unless the parameter `unsettled` says that it completes. -/
def rvRemainder (b : Word) (p : RvState) (body : Body RvState) : Body RvState :=
  if p.params.unsettled = .refuse ∧ b = 0 then .error (.refuses .rvZeroDivisor) else body

/-- The remainder of remw (R622): the dividend's sign; a free value of the dividend for a zero divisor that completes
(notes/assumptions/30.md). -/
def remwValue (a b : Word) : Word := if b = 0 then Config.remwByZero a else a.srem b

/-- The remainder of remuw (R623); a free value of the dividend for a zero divisor that completes
(notes/assumptions/30.md). -/
def remuwValue (a b : Word) : Word := if b = 0 then Config.remuwByZero a else a % b

/-- lh (R586). -/
def execRvLh (rd : BitVec 5) (off : BitVec 12) (rs1 : BitVec 5) (s : State) : Result :=
  rvDo rvBase 4 (rvLoad 16 (fun n v => v.signExtend n) rd off rs1) s

/-- lw (R588). -/
def execRvLw (rd : BitVec 5) (off : BitVec 12) (rs1 : BitVec 5) (s : State) : Result :=
  rvDo rvBase 4 (rvLoad 32 (fun n v => v.signExtend n) rd off rs1) s

/-- ld (R585). -/
def execRvLd (rd : BitVec 5) (off : BitVec 12) (rs1 : BitVec 5) (s : State) : Result :=
  rvDo rv64Only 4 (rvLoad 64 (fun n v => v.setWidth n) rd off rs1) s

/-- lhu (R587). -/
def execRvLhu (rd : BitVec 5) (off : BitVec 12) (rs1 : BitVec 5) (s : State) : Result :=
  rvDo rvBase 4 (rvLoad 16 (fun n v => v.setWidth n) rd off rs1) s

/-- lwu (R589). -/
def execRvLwu (rd : BitVec 5) (off : BitVec 12) (rs1 : BitVec 5) (s : State) : Result :=
  rvDo rv64Only 4 (rvLoad 32 (fun n v => v.setWidth n) rd off rs1) s

/-- addi (R598). -/
def execRvAddi (rd rs1 : BitVec 5) (imm : BitVec 12) (s : State) : Result :=
  rvDo rvBase 4 (rvRegImm rvSum rd rs1 imm) s

/-- slli (R613). -/
def execRvSlli (rd rs1 : BitVec 5) (shamt : BitVec 6) (s : State) : Result :=
  rvDo rvBase 4 (rvShift (shamtFits shamt) fun p =>
    rvWrite rd (p.reg p.xlen rs1 <<< shamt.toNat) p) s

/-- slti (R607). -/
def execRvSlti (rd rs1 : BitVec 5) (imm : BitVec 12) (s : State) : Result :=
  rvDo rvBase 4 (rvRegImm rvLessSigned rd rs1 imm) s

/-- sltiu (R608). -/
def execRvSltiu (rd rs1 : BitVec 5) (imm : BitVec 12) (s : State) : Result :=
  rvDo rvBase 4 (rvRegImm rvLessUnsigned rd rs1 imm) s

/-- srli (R617). -/
def execRvSrli (rd rs1 : BitVec 5) (shamt : BitVec 6) (s : State) : Result :=
  rvDo rvBase 4 (rvShift (shamtFits shamt) fun p =>
    rvWrite rd (p.reg p.xlen rs1 >>> shamt.toNat) p) s

/-- ori (R603). -/
def execRvOri (rd rs1 : BitVec 5) (imm : BitVec 12) (s : State) : Result :=
  rvDo rvBase 4 (rvRegImm rvUnion rd rs1 imm) s

/-- addiw (R599). -/
def execRvAddiw (rd rs1 : BitVec 5) (imm : BitVec 12) (s : State) : Result :=
  rvDo rv64Only 4 (fun p => rvWriteWord rd (p.word rs1 + imm.signExtend 32) p) s

/-- slliw (R614). -/
def execRvSlliw (rd rs1 : BitVec 5) (shamt : BitVec 6) (s : State) : Result :=
  rvDo rv64Only 4 (rvShift (shamtFitsWord shamt) fun p =>
    rvWriteWord rd (p.word rs1 <<< shamt.toNat) p) s

/-- srliw (R618). -/
def execRvSrliw (rd rs1 : BitVec 5) (shamt : BitVec 6) (s : State) : Result :=
  rvDo rv64Only 4 (rvShift (shamtFitsWord shamt) fun p =>
    rvWriteWord rd (p.word rs1 >>> shamt.toNat) p) s

/-- sb (R592). -/
def execRvSb (rs2 : BitVec 5) (off : BitVec 12) (rs1 : BitVec 5) (s : State) : Result :=
  rvDo rvBase 4 (rvStore 8 rs2 off rs1) s

/-- sh (R593). -/
def execRvSh (rs2 : BitVec 5) (off : BitVec 12) (rs1 : BitVec 5) (s : State) : Result :=
  rvDo rvBase 4 (rvStore 16 rs2 off rs1) s

/-- sw (R594). -/
def execRvSw (rs2 : BitVec 5) (off : BitVec 12) (rs1 : BitVec 5) (s : State) : Result :=
  rvDo rvBase 4 (rvStore 32 rs2 off rs1) s

/-- add (R597). -/
def execRvAdd (rd rs1 rs2 : BitVec 5) (s : State) : Result :=
  rvDo rvBase 4 (rvReg3 rvSum rd rs1 rs2) s

/-- sll (R612). -/
def execRvSll (rd rs1 rs2 : BitVec 5) (s : State) : Result :=
  rvDo rvBase 4 (fun p => rvWrite rd (p.reg p.xlen rs1 <<< p.amount rs2) p) s

/-- slt (R606). -/
def execRvSlt (rd rs1 rs2 : BitVec 5) (s : State) : Result :=
  rvDo rvBase 4 (rvReg3 rvLessSigned rd rs1 rs2) s

/-- sltu (R609). -/
def execRvSltu (rd rs1 rs2 : BitVec 5) (s : State) : Result :=
  rvDo rvBase 4 (rvReg3 rvLessUnsigned rd rs1 rs2) s

/-- srl (R616). -/
def execRvSrl (rd rs1 rs2 : BitVec 5) (s : State) : Result :=
  rvDo rvBase 4 (fun p => rvWrite rd (p.reg p.xlen rs1 >>> p.amount rs2) p) s

/-- or (R602). -/
def execRvOr (rd rs1 rs2 : BitVec 5) (s : State) : Result :=
  rvDo rvBase 4 (rvReg3 rvUnion rd rs1 rs2) s

/-- lui (R601). -/
def execRvLui (rd : BitVec 5) (imm : BitVec 20) (s : State) : Result :=
  rvDo rvBase 4 (fun p => rvWrite rd ((imm.setWidth 32 <<< 12).signExtend p.xlen) p) s

/-- addw (R600). -/
def execRvAddw (rd rs1 rs2 : BitVec 5) (s : State) : Result :=
  rvDo rv64Only 4 (fun p => rvWriteWord rd (p.word rs1 + p.word rs2) p) s

/-- sllw (R615). -/
def execRvSllw (rd rs1 rs2 : BitVec 5) (s : State) : Result :=
  rvDo rv64Only 4 (fun p => rvWriteWord rd (p.word rs1 <<< ((p.word rs2).toNat % 32)) p) s

/-- sraw (R619). -/
def execRvSraw (rd rs1 rs2 : BitVec 5) (s : State) : Result :=
  rvDo rv64Only 4 (fun p => rvWriteWord rd ((p.word rs1).sshiftRight ((p.word rs2).toNat % 32)) p) s

/-- remw (R622). -/
def execRvRemw (rd rs1 rs2 : BitVec 5) (s : State) : Result :=
  rvDo rv64M 4 (fun p => rvRemainder (p.word rs2) p (rvWriteWord rd (remwValue (p.word rs1) (p.word rs2)) p)) s

/-- remuw (R623). -/
def execRvRemuw (rd rs1 rs2 : BitVec 5) (s : State) : Result :=
  rvDo rv64M 4 (fun p => rvRemainder (p.word rs2) p (rvWriteWord rd (remuwValue (p.word rs1) (p.word rs2)) p)) s

/-- bne (R627). -/
def execRvBne (rs1 rs2 : BitVec 5) (off : BitVec 12) (s : State) : Result :=
  rvJumpDo rvBase (rvBneBody rs1 rs2 off) s

/-- lr.w (R631; aq and rl have no effect, spec/30_encoding.md R228). -/
def execRvLrW (_aq _rl : Bool) (rd rs1 : BitVec 5) (s : State) : Result :=
  rvDo rvA 4 (rvLoadReserved 32 rd rs1) s

/-- lr.d (R632). -/
def execRvLrD (_aq _rl : Bool) (rd rs1 : BitVec 5) (s : State) : Result :=
  rvDo rv64A 4 (rvLoadReserved 64 rd rs1) s

/-- sc.d (R633). -/
def execRvScD (_aq _rl : Bool) (rd rs2 rs1 : BitVec 5) (s : State) : Result :=
  rvDo rv64A 4 (rvScDBody rd rs2 rs1) s

/-- amoadd.d (R634). -/
def execRvAmoaddD (_aq _rl : Bool) (rd rs2 rs1 : BitVec 5) (s : State) : Result :=
  rvDo rv64A 4 (rvAmoaddDBody rd rs2 rs1) s

/-- mret (R643). -/
def execRvMret (s : State) : Result :=
  rvJumpDo rvPrivM rvReturnMachine s

/-- sret (R644). -/
def execRvSret (s : State) : Result :=
  rvJumpDo rvPrivS rvReturnSupervisor s

/-- neg = sub rd, x0, rs2 (R651). -/
def execRvNeg (rd rs2 : BitVec 5) (s : State) : Result :=
  rvDo rvBase 4 (fun p => rvWrite rd (-(p.reg p.xlen rs2)) p) s

/-- negw = subw rd, x0, rs2 (R652). -/
def execRvNegw (rd rs2 : BitVec 5) (s : State) : Result :=
  rvDo rv64Only 4 (fun p => rvWriteWord rd (-(p.word rs2)) p) s

/-- not = xori rd, rs1, -1 (R654). -/
def execRvNot (rd rs1 : BitVec 5) (s : State) : Result :=
  rvDo rvBase 4 (fun p => rvWrite rd (~~~(p.reg p.xlen rs1)) p) s

/-- rdcycle: a fresh free value, which the cycle CSR then holds (R655, D26). -/
def execRvRdcycle (rd : BitVec 5) (s : State) : Result :=
  rvDo rvBase 4 (fun p =>
    rvWrite rd (p.draw p.xlen).1 { (p.draw p.xlen).2 with cycle := (p.draw p.xlen).1.setWidth 64 }) s

/-- ret = jalr x0, 0(x1) (R656). -/
def execRvRet (s : State) : Result :=
  rvJumpDo rvBase (fun p => p.jump ((p.reg p.xlen 1).setWidth 64)) s

/-- nop = addi x0, x0, 0 (R653). -/
def execRvNop (s : State) : Result :=
  rvDo rvBase 4 (rvRegImm rvSum 0 0 0) s

/-- bnez = bne rs1, x0, offset (R650). -/
def execRvBnez (rs1 : BitVec 5) (off : BitVec 12) (s : State) : Result :=
  rvJumpDo rvBase (rvBneBody rs1 0 off) s

/-- li = addi rd, x0, immediate (R648). -/
def execRvLi (rd : BitVec 5) (imm : BitVec 12) (s : State) : Result :=
  rvDo rvBase 4 (rvRegImm rvSum rd 0 imm) s

/-- c.add = add rd, rd, rs2 (R637). -/
def execRvCAdd (rd rs2 : BitVec 5) (s : State) : Result :=
  rvDo rvC 2 (rvReg3 rvSum rd rd rs2) s

/-- c.addi = addi rd, rd, imm (R638). -/
def execRvCAddi (rd : BitVec 5) (imm : BitVec 6) (s : State) : Result :=
  rvDo rvC 2 (rvRegImm rvSum rd rd (imm.signExtend 12)) s

/-- c.addi16sp = addi x2, x2, imm, with imm[9:4] given (R639). -/
def execRvCAddi16sp (imm : BitVec 6) (s : State) : Result :=
  rvDo rvC 2 (rvRegImm rvSum 2 2 (imm.signExtend 12 <<< 4)) s

/-- c.addi4spn = addi rd, x2, uimm with rd = 8 + rd', uimm[9:2] given (R640). -/
def execRvCAddi4spn (rd : BitVec 3) (uimm : BitVec 8) (s : State) : Result :=
  rvDo rvC 2 (rvRegImm rvSum (8#5 + rd.setWidth 5) 2 (uimm.setWidth 12 <<< 2)) s

end Sys2Proof.Machine
end

