-- ==== Sys2Proof/Machine/Sparc.lean ====
section
/-! DEFINITION. The meanings of P4 (spec/43_sparc.md R452 to R470). A synthetic instruction has the meaning of the words
it writes (R470). -/

namespace Sys2Proof.Machine

/-- `r[rd] <- f r[rs1] operand2`. -/
def sparcOp (f : Word → Word → Word) (rs1 : BitVec 5) (o : SparcOp2) (rd : BitVec 5) (p : SparcState) :
    Body SparcState :=
  .ok (p.setReg rd (f (p.reg rs1) (p.op2 o)))

/-- SUBcc (R456): the flags are those of the difference, also when rd = 0. -/
def sparcSubccBody (rs1 : BitVec 5) (o : SparcOp2) (rd : BitVec 5) (p : SparcState) : Body SparcState :=
  .ok ((p.setReg rd (p.reg rs1 - p.op2 o)).setIccSub (p.reg rs1) (p.op2 o))

/-- JMPL (R465): at a misaligned target it traps and writes nothing (D23). A jump target is no data address, so the trap
carries nothing (spec/60_exceptions.md R682). -/
def sparcJmplBody (rs1 : BitVec 5) (o : SparcOp2) (rd : BitVec 5) (p : SparcState) : Body SparcState :=
  let target := p.reg rs1 + p.op2 o
  if target.extractLsb' 0 2 ≠ 0#2 then .error (.raises (.sparcNotAligned none))
  else .ok ((p.setReg rd p.pc).transfer target false)

/-- The nPC that a Bicc writes (R460): its own address plus four times disp22, or the old nPC plus 4. -/
def SparcState.biccNpc (p : SparcState) (cond : SparcCond) (disp : BitVec 22) : Word :=
  if p.taken cond then p.pc + (disp.signExtend 32 <<< 2) else p.npc + 4

/-- Whether a Bicc annuls its delay instruction (R461). -/
def SparcState.annuls (p : SparcState) (a : Bool) (cond : SparcCond) : Bool :=
  a && (cond == .a || !p.taken cond)

/-- Bicc (R460, R461). -/
def execSparcBicc (a : Bool) (cond : SparcCond) (disp : BitVec 22) (s : State) : Result :=
  sparcTransferDo (fun p => .ok (p.transfer (p.biccNpc cond disp) (p.annuls a cond))) s

/-- SETHI (R467). -/
def execSparcSethi (imm : BitVec 22) (rd : BitVec 5) (s : State) : Result :=
  sparcDo (fun p => .ok (p.setReg rd (imm.setWidth 32 <<< 10))) s

/-- NOP (R468). -/
def execSparcNop (s : State) : Result := sparcDo (fun p => .ok p) s

/-- ADD (R453). -/
def execSparcAdd (rs1 : BitVec 5) (op2 : SparcOp2) (rd : BitVec 5) (s : State) : Result :=
  sparcDo (sparcOp (· + ·) rs1 op2 rd) s

/-- OR (R452). -/
def execSparcOr (rs1 : BitVec 5) (op2 : SparcOp2) (rd : BitVec 5) (s : State) : Result :=
  sparcDo (sparcOp (· ||| ·) rs1 op2 rd) s

/-- ADDX (R455). -/
def execSparcAddx (rs1 : BitVec 5) (op2 : SparcOp2) (rd : BitVec 5) (s : State) : Result :=
  sparcDo (fun p => sparcOp (fun a b => addWith a b p.c) rs1 op2 rd p) s

/-- ADDcc (R454): the flags are those of the sum, also when rd = 0. -/
def execSparcAddcc (rs1 : BitVec 5) (op2 : SparcOp2) (rd : BitVec 5) (s : State) : Result :=
  sparcDo (fun p => .ok ((p.setReg rd (p.reg rs1 + p.op2 op2)).setIccAdd (p.reg rs1) (p.op2 op2))) s

/-- SUBcc (R456). -/
def execSparcSubcc (rs1 : BitVec 5) (op2 : SparcOp2) (rd : BitVec 5) (s : State) : Result :=
  sparcDo (sparcSubccBody rs1 op2 rd) s

/-- SLL (R457). -/
def execSparcSll (rs1 : BitVec 5) (op2 : SparcOp2) (rd : BitVec 5) (s : State) : Result :=
  sparcDo (fun p => .ok (p.setReg rd (p.reg rs1 <<< p.count op2))) s

/-- SRL (R457). -/
def execSparcSrl (rs1 : BitVec 5) (op2 : SparcOp2) (rd : BitVec 5) (s : State) : Result :=
  sparcDo (fun p => .ok (p.setReg rd (p.reg rs1 >>> p.count op2))) s

/-- JMPL (R465). -/
def execSparcJmpl (rs1 : BitVec 5) (op2 : SparcOp2) (rd : BitVec 5) (s : State) : Result :=
  sparcTransferDo (sparcJmplBody rs1 op2 rd) s

/-- LD (R459; spec/20_memory.md R115). -/
def execSparcLd (rs1 : BitVec 5) (op2 : SparcOp2) (rd : BitVec 5) (s : State) : Result :=
  sparcDo (fun p =>
    let ea := p.reg rs1 + p.op2 op2
    if ea.extractLsb' 0 2 ≠ 0#2 then .error (.raises (.sparcNotAligned (some ea)))
    else if inRegions p.params.dae ea.toNat then .error (.raises (.sparcDataAccess ea))
    else .ok (p.setReg rd (p.mem.read .big top32 32 ea.toNat))) s

/-- cmp = subcc to %g0 (R470). -/
def execSparcCmp (rs1 : BitVec 5) (op2 : SparcOp2) (s : State) : Result := sparcDo (sparcSubccBody rs1 op2 0) s

/-- jmp = jmpl to %g0 (R470). -/
def execSparcJmp (rs1 : BitVec 5) (op2 : SparcOp2) (s : State) : Result := sparcTransferDo (sparcJmplBody rs1 op2 0) s

/-- call = jmpl to %o7 (R470). -/
def execSparcCall (rs1 : BitVec 5) (op2 : SparcOp2) (s : State) : Result :=
  sparcTransferDo (sparcJmplBody rs1 op2 15) s

/-- ret = jmpl %i7+8, %g0 (R470). -/
def execSparcRet (s : State) : Result := sparcTransferDo (sparcJmplBody 31 (.imm 8) 0) s

/-- retl = jmpl %o7+8, %g0 (R470). -/
def execSparcRetl (s : State) : Result := sparcTransferDo (sparcJmplBody 15 (.imm 8) 0) s

/-- mov and clr = or %g0, operand2, rd (R470). -/
def execSparcMov (op2 : SparcOp2) (rd : BitVec 5) (s : State) : Result := sparcDo (sparcOp (· ||| ·) 0 op2 rd) s

end Sys2Proof.Machine
end

