-- ==== Sys2Proof/Machine/X86Alu.lean ====
section
/-! DEFINITION. The meanings of XOR, ADD and ADC (spec/40_ia32.md R265, R270, R272), each a direct use of one of
three shared forms: an r/m destination, a register destination, the accumulator. -/

namespace Sys2Proof.Machine

/-- What an arithmetic instruction makes of its destination and source: the result, and the state with the flags. -/
abbrev AluOp := (w : Nat) → X86State → BitVec w → BitVec w → BitVec w × X86State

/-- ADD (R270). -/
def addOp : AluOp := fun _ x a b => (addWith a b false, { x with flags := x86AddFlags a b false })

/-- ADC: the carry in is CF before (R272). -/
def adcOp : AluOp := fun _ x a b => (addWith a b x.flags.cf, { x with flags := x86AddFlags a b x.flags.cf })

/-- XOR: AF becomes a free value (R265). -/
def xorOp : AluOp := fun _ x a b =>
  let d := x.draw 1
  (a ^^^ b, { d.2 with flags := x86LogicFlags (a ^^^ b) (d.1 == 1#1) })

/-- Destination r/m (R251: the read, then the checked write, of the same operand). -/
def aluToRM (op : AluOp) (w : Nat) (rm : X86RM) (src : BitVec w) (x : X86State) : Body X86State :=
  match x.readRM w rm with
  | .ok d => (op w x d src).2.writeRM rm (op w x d src).1
  | .error e => .error e

/-- Destination register, source r/m. -/
def aluToReg (op : AluOp) (w : Nat) (r : BitVec 3) (rm : X86RM) (x : X86State) : Body X86State :=
  match x.readRM w rm with
  | .ok b => .ok ((op w x (x.readReg w r) b).2.writeReg r (op w x (x.readReg w r) b).1)
  | .error e => .error e

/-- Destination AL, AX or EAX, source immediate. -/
def aluToAcc (op : AluOp) (w : Nat) (v : BitVec w) (x : X86State) : Body X86State :=
  .ok ((op w x (x.readReg w eax) v).2.writeReg eax (op w x (x.readReg w eax) v).1)

/-- XOR AL, imm8 (R265). -/
def execX86XorAlImm8 (imm : BitVec 8) (s : State) : Result :=
  x86Do (.x86XorAlImm8 imm) (aluToAcc xorOp 8 imm) s

/-- XOR AX, imm16 and XOR EAX, imm32 (R265). -/
def execX86XorAxImm (imm : BitVec 32) (s : State) : Result :=
  x86Do (.x86XorAxImm imm) (fun x => x.atOpSize fun w => aluToAcc xorOp w (immOp w imm) x) s

/-- XOR r/m8, imm8 (R265). -/
def execX86XorRm8Imm8 (rm : X86RM) (imm : BitVec 8) (s : State) : Result :=
  x86Do (.x86XorRm8Imm8 rm imm) (aluToRM xorOp 8 rm imm) s

/-- XOR r/m16, imm16 and XOR r/m32, imm32 (R265). -/
def execX86XorRmImm (rm : X86RM) (imm : BitVec 32) (s : State) : Result :=
  x86Do (.x86XorRmImm rm imm) (fun x => x.atOpSize fun w => aluToRM xorOp w rm (immOp w imm) x) s

/-- XOR r/m16, imm8 and XOR r/m32, imm8: the byte is sign-extended (R265; spec/30_encoding.md R159). -/
def execX86XorRmImm8 (rm : X86RM) (imm : BitVec 8) (s : State) : Result :=
  x86Do (.x86XorRmImm8 rm imm) (fun x => x.atOpSize fun w => aluToRM xorOp w rm (immSext w imm) x) s

/-- XOR r/m8, r8 (R265). -/
def execX86XorRm8R8 (rm : X86RM) (r : BitVec 3) (s : State) : Result :=
  x86Do (.x86XorRm8R8 rm r) (fun x => aluToRM xorOp 8 rm (x.readReg 8 r) x) s

/-- XOR r/m16, r16 and XOR r/m32, r32 (R265). -/
def execX86XorRmR (rm : X86RM) (r : BitVec 3) (s : State) : Result :=
  x86Do (.x86XorRmR rm r) (fun x => x.atOpSize fun w => aluToRM xorOp w rm (x.readReg w r) x) s

/-- XOR r8, r/m8 (R265). -/
def execX86XorR8Rm8 (r : BitVec 3) (rm : X86RM) (s : State) : Result :=
  x86Do (.x86XorR8Rm8 r rm) (aluToReg xorOp 8 r rm) s

/-- XOR r16, r/m16 and XOR r32, r/m32 (R265). -/
def execX86XorRRm (r : BitVec 3) (rm : X86RM) (s : State) : Result :=
  x86Do (.x86XorRRm r rm) (fun x => x.atOpSize fun w => aluToReg xorOp w r rm x) s

/-- ADD AL, imm8 (R270). -/
def execX86AddAlImm8 (imm : BitVec 8) (s : State) : Result :=
  x86Do (.x86AddAlImm8 imm) (aluToAcc addOp 8 imm) s

/-- ADD AX, imm16 and ADD EAX, imm32 (R270). -/
def execX86AddAxImm (imm : BitVec 32) (s : State) : Result :=
  x86Do (.x86AddAxImm imm) (fun x => x.atOpSize fun w => aluToAcc addOp w (immOp w imm) x) s

/-- ADD r/m8, imm8 (R270). -/
def execX86AddRm8Imm8 (rm : X86RM) (imm : BitVec 8) (s : State) : Result :=
  x86Do (.x86AddRm8Imm8 rm imm) (aluToRM addOp 8 rm imm) s

/-- ADD r/m16, imm16 and ADD r/m32, imm32 (R270). -/
def execX86AddRmImm (rm : X86RM) (imm : BitVec 32) (s : State) : Result :=
  x86Do (.x86AddRmImm rm imm) (fun x => x.atOpSize fun w => aluToRM addOp w rm (immOp w imm) x) s

/-- ADD r/m16, imm8 and ADD r/m32, imm8: the byte is sign-extended (R270; spec/30_encoding.md R159). -/
def execX86AddRmImm8 (rm : X86RM) (imm : BitVec 8) (s : State) : Result :=
  x86Do (.x86AddRmImm8 rm imm) (fun x => x.atOpSize fun w => aluToRM addOp w rm (immSext w imm) x) s

/-- ADD r/m8, r8 (R270). -/
def execX86AddRm8R8 (rm : X86RM) (r : BitVec 3) (s : State) : Result :=
  x86Do (.x86AddRm8R8 rm r) (fun x => aluToRM addOp 8 rm (x.readReg 8 r) x) s

/-- ADD r/m16, r16 and ADD r/m32, r32 (R270). -/
def execX86AddRmR (rm : X86RM) (r : BitVec 3) (s : State) : Result :=
  x86Do (.x86AddRmR rm r) (fun x => x.atOpSize fun w => aluToRM addOp w rm (x.readReg w r) x) s

/-- ADD r8, r/m8 (R270). -/
def execX86AddR8Rm8 (r : BitVec 3) (rm : X86RM) (s : State) : Result :=
  x86Do (.x86AddR8Rm8 r rm) (aluToReg addOp 8 r rm) s

/-- ADD r16, r/m16 and ADD r32, r/m32 (R270). -/
def execX86AddRRm (r : BitVec 3) (rm : X86RM) (s : State) : Result :=
  x86Do (.x86AddRRm r rm) (fun x => x.atOpSize fun w => aluToReg addOp w r rm x) s

/-- ADC AL, imm8 (R272). -/
def execX86AdcAlImm8 (imm : BitVec 8) (s : State) : Result :=
  x86Do (.x86AdcAlImm8 imm) (aluToAcc adcOp 8 imm) s

/-- ADC AX, imm16 and ADC EAX, imm32 (R272). -/
def execX86AdcAxImm (imm : BitVec 32) (s : State) : Result :=
  x86Do (.x86AdcAxImm imm) (fun x => x.atOpSize fun w => aluToAcc adcOp w (immOp w imm) x) s

/-- ADC r/m8, imm8 (R272). -/
def execX86AdcRm8Imm8 (rm : X86RM) (imm : BitVec 8) (s : State) : Result :=
  x86Do (.x86AdcRm8Imm8 rm imm) (aluToRM adcOp 8 rm imm) s

/-- ADC r/m16, imm16 and ADC r/m32, imm32 (R272). -/
def execX86AdcRmImm (rm : X86RM) (imm : BitVec 32) (s : State) : Result :=
  x86Do (.x86AdcRmImm rm imm) (fun x => x.atOpSize fun w => aluToRM adcOp w rm (immOp w imm) x) s

/-- ADC r/m16, imm8 and ADC r/m32, imm8: the byte is sign-extended (R272; spec/30_encoding.md R159). -/
def execX86AdcRmImm8 (rm : X86RM) (imm : BitVec 8) (s : State) : Result :=
  x86Do (.x86AdcRmImm8 rm imm) (fun x => x.atOpSize fun w => aluToRM adcOp w rm (immSext w imm) x) s

/-- ADC r/m8, r8 (R272). -/
def execX86AdcRm8R8 (rm : X86RM) (r : BitVec 3) (s : State) : Result :=
  x86Do (.x86AdcRm8R8 rm r) (fun x => aluToRM adcOp 8 rm (x.readReg 8 r) x) s

/-- ADC r/m16, r16 and ADC r/m32, r32 (R272). -/
def execX86AdcRmR (rm : X86RM) (r : BitVec 3) (s : State) : Result :=
  x86Do (.x86AdcRmR rm r) (fun x => x.atOpSize fun w => aluToRM adcOp w rm (x.readReg w r) x) s

/-- ADC r8, r/m8 (R272). -/
def execX86AdcR8Rm8 (r : BitVec 3) (rm : X86RM) (s : State) : Result :=
  x86Do (.x86AdcR8Rm8 r rm) (aluToReg adcOp 8 r rm) s

/-- ADC r16, r/m16 and ADC r32, r/m32 (R272). -/
def execX86AdcRRm (r : BitVec 3) (rm : X86RM) (s : State) : Result :=
  x86Do (.x86AdcRRm r rm) (fun x => x.atOpSize fun w => aluToReg adcOp w r rm x) s

end Sys2Proof.Machine
end

