-- ==== Sys2Proof/Machine/X86Control.lean ====
section
/-! DEFINITION. The meanings of LOOP, LOOPE, LOOPNE (spec/40_ia32.md R274 to R277), near RET (R296, R297), and the two
forms that the spec only recognises: far RET (R298) and the LOCK prefix (spec/30_encoding.md R158). -/

namespace Sys2Proof.Machine

/-- The count register decremented (R274): ECX or CX by `AddressSize`. -/
def X86State.countDown (x : X86State) : X86State :=
  if x.addr32 then x.writeReg ecx (x.readReg 32 ecx - 1) else x.writeReg ecx (x.readReg 16 ecx - 1)

/-- The count register is not zero. -/
def X86State.counting (x : X86State) : Bool :=
  if x.addr32 then x.readReg 32 ecx != 0 else x.readReg 16 ecx != 0

/-- LOOP and its conditional forms (R274): `cond` is the test of ZF. -/
def loopBody (rel : BitVec 8) (cond : Bool) (x : X86State) : Body X86State :=
  let y := x.countDown
  let target := y.eip + rel.signExtend 32
  if y.counting && cond then y.jumpNear (if y.op32 then target else target &&& 0x0000FFFF#32) else .ok y

/-- LOOP rel8 (R274). -/
def execX86Loop (rel : BitVec 8) (s : State) : Result := x86Do (.x86Loop rel) (loopBody rel true) s

/-- LOOPE rel8 (R275). -/
def execX86Loope (rel : BitVec 8) (s : State) : Result :=
  x86Do (.x86Loope rel) (fun x => loopBody rel x.flags.zf x) s

/-- LOOPNE rel8 (R276). -/
def execX86Loopne (rel : BitVec 8) (s : State) : Result :=
  x86Do (.x86Loopne rel) (fun x => loopBody rel (!x.flags.zf) x) s

/-- Near RET releasing `extra` more bytes of stack (R296, R297): refused where the bytes straddle the end of a 16-bit
stack (spec/20_memory.md R105); the stack limit and the code-segment limit are tests of the instruction itself, in every
mode. -/
def retBody (extra : Word) (x : X86State) : Body X86State :=
  x.atOpSize fun w =>
    if x.straddles x.sp (w / 8) then .error (.refuses .stackStraddle)
    else if x.pastLimit .ss x.sp (w / 8) then .error (.raises (.x86 (.ss 0)))
    else
      match x.pop w with
      | .error e => .error e
      | .ok (v, y) =>
        match y.jumpNear (v.setWidth 32) with
        | .ok z => .ok (z.setSp (z.spPlus extra))
        | .error e => .error e

/-- RET, near (R296). -/
def execX86Ret (s : State) : Result := x86Do .x86Ret (retBody 0) s

/-- RET imm16, near (R297). -/
def execX86RetImm (imm : BitVec 16) (s : State) : Result := x86Do (.x86RetImm imm) (retBody (imm.setWidth 32)) s

/-- RET, far: refused (R298). -/
def execX86RetFar (_s : State) : Result := .refused .farReturn

/-- RET imm16, far: refused (R298). -/
def execX86RetFarImm (_imm : BitVec 16) (_s : State) : Result := .refused .farReturn

/-- The LOCK prefix: refused (spec/30_encoding.md R158; spec/20_memory.md R108). -/
def execX86Lock (_s : State) : Result := .refused .lockPrefix

end Sys2Proof.Machine
end

