-- ==== Sys2Proof/Machine/X86Move.lean ====
section
/-! DEFINITION. The meanings of MOV (spec/40_ia32.md R266 to R268), SHRD (R278 to R280) and XCHG (R282). -/

namespace Sys2Proof.Machine

/-- An r/m destination gets the value of a register of its width (R266). -/
def movToRM (w : Nat) (rm : X86RM) (v : BitVec w) (x : X86State) : Body X86State := x.writeRM rm v

/-- A register gets an r/m source (R266). -/
def movToReg (w : Nat) (r : BitVec 3) (rm : X86RM) (x : X86State) : Body X86State :=
  match x.readRM w rm with
  | .ok v => .ok (x.writeReg r v)
  | .error e => .error e

/-- The accumulator gets the bytes at seg:offset (R267). -/
def movFromMoffs (w : Nat) (off : BitVec 32) (x : X86State) : Body X86State :=
  match x.readSeg w x.moffsSeg (x.moffs off) .read with
  | .ok v => .ok (x.writeReg eax v)
  | .error e => .error e

/-- The bytes at seg:offset get the accumulator (R267). -/
def movToMoffs (w : Nat) (off : BitVec 32) (x : X86State) : Body X86State :=
  x.writeSeg x.moffsSeg (x.moffs off) .write (x.readReg w eax)

/-- MOV r/m16, Sreg with the segment register's selector (R268): two bytes of memory, or a register whose bits 31:16
are free unless the code segment is 16-bit and no operand-size prefix stands (notes/assumptions/16.md). -/
def movSelector (rm : X86RM) (sel : Half) (x : X86State) : Body X86State :=
  match rm with
  | .mem _ => x.writeRM rm sel
  | .reg n =>
    if x.segs.cs.desc.big ∨ x.pfx.op then
      .ok ((x.draw 16).2.writeReg n (bitsOf 32 [fd (x.draw 16).1, fd sel]))
    else .ok (x.writeReg n sel)

/-- MOV r/m8, r8 (R266). -/
def execX86MovRm8R8 (rm : X86RM) (r : BitVec 3) (s : State) : Result :=
  x86Do (.x86MovRm8R8 rm r) (fun x => movToRM 8 rm (x.readReg 8 r) x) s

/-- MOV r/m16, r16 and MOV r/m32, r32 (R266). -/
def execX86MovRmR (rm : X86RM) (r : BitVec 3) (s : State) : Result :=
  x86Do (.x86MovRmR rm r) (fun x => x.atOpSize fun w => movToRM w rm (x.readReg w r) x) s

/-- MOV r8, r/m8 (R266). -/
def execX86MovR8Rm8 (r : BitVec 3) (rm : X86RM) (s : State) : Result :=
  x86Do (.x86MovR8Rm8 r rm) (movToReg 8 r rm) s

/-- MOV r16, r/m16 and MOV r32, r/m32 (R266). -/
def execX86MovRRm (r : BitVec 3) (rm : X86RM) (s : State) : Result :=
  x86Do (.x86MovRRm r rm) (fun x => x.atOpSize fun w => movToReg w r rm x) s

/-- MOV r/m16, Sreg (R268); `#UD` for numbers 6 and 7 (spec/30_encoding.md R161). -/
def execX86MovRmSreg (rm : X86RM) (sr : BitVec 3) (s : State) : Result :=
  x86Do (.x86MovRmSreg rm sr) (fun x =>
    match sregOf sr with
    | some g => movSelector rm (x.segs.get g).sel x
    | none => .error (.raises (.x86 .ud))) s

/-- MOV Sreg, r/m16 (R268): `#UD` for CS and for numbers 6 and 7, before the operand is read (spec/60_exceptions.md
R691). -/
def execX86MovSregRm (sr : BitVec 3) (rm : X86RM) (s : State) : Result :=
  x86Do (.x86MovSregRm sr rm) (fun x =>
    match sregOf sr with
    | none => .error (.raises (.x86 .ud))
    | some g =>
      if g = .cs then .error (.raises (.x86 .ud))
      else
        match x.readRM 16 rm with
        | .ok v => x.loadSeg g v
        | .error e => .error e) s

/-- MOV AL, moffs8 (R267). -/
def execX86MovAlMoffs (off : BitVec 32) (s : State) : Result :=
  x86Do (.x86MovAlMoffs off) (movFromMoffs 8 off) s

/-- MOV AX, moffs16 and MOV EAX, moffs32 (R267). -/
def execX86MovAxMoffs (off : BitVec 32) (s : State) : Result :=
  x86Do (.x86MovAxMoffs off) (fun x => x.atOpSize fun w => movFromMoffs w off x) s

/-- MOV moffs8, AL (R267). -/
def execX86MovMoffsAl (off : BitVec 32) (s : State) : Result :=
  x86Do (.x86MovMoffsAl off) (movToMoffs 8 off) s

/-- MOV moffs16, AX and MOV moffs32, EAX (R267). -/
def execX86MovMoffsAx (off : BitVec 32) (s : State) : Result :=
  x86Do (.x86MovMoffsAx off) (fun x => x.atOpSize fun w => movToMoffs w off x) s

/-- MOV r8, imm8 (R266). -/
def execX86MovR8Imm8 (r : BitVec 3) (imm : BitVec 8) (s : State) : Result :=
  x86Do (.x86MovR8Imm8 r imm) (fun x => .ok (x.writeReg r imm)) s

/-- MOV r16, imm16 and MOV r32, imm32 (R266). -/
def execX86MovRImm (r : BitVec 3) (imm : BitVec 32) (s : State) : Result :=
  x86Do (.x86MovRImm r imm) (fun x => x.atOpSize fun w => .ok (x.writeReg r (immOp w imm))) s

/-- MOV r/m8, imm8 (R266). -/
def execX86MovRm8Imm8 (rm : X86RM) (imm : BitVec 8) (s : State) : Result :=
  x86Do (.x86MovRm8Imm8 rm imm) (movToRM 8 rm imm) s

/-- MOV r/m16, imm16 and MOV r/m32, imm32 (R266). -/
def execX86MovRmImm (rm : X86RM) (imm : BitVec 32) (s : State) : Result :=
  x86Do (.x86MovRmImm rm imm) (fun x => x.atOpSize fun w => movToRM w rm (immOp w imm) x) s

/-- SHRD of `w` bits by `count` = the count operand MOD 32 (R278 to R280): the read and the write check are made
whatever the count is; a count of `w` or more leaves a free destination and free flags. -/
def shrdBody (w : Nat) (rm : X86RM) (src : BitVec w) (count : Nat) (x : X86State) : Body X86State :=
  match x.readRM w rm with
  | .error e => .error e
  | .ok d =>
    if count = 0 then x.checkWriteRM w rm
    else if w ≤ count then
      let v := x.draw w
      let f := v.2.draw 6
      X86State.writeRM { f.2 with flags := x86FreeFlags f.1 } rm v.1
    else
      let f := x.draw 2
      X86State.writeRM { f.2 with flags := shrdFlags d src count (f.1.getLsbD 0) (f.1.getLsbD 1) } rm
        (shrdValue d src count)

/-- SHRD r/m, r, imm8 (R278). -/
def execX86ShrdImm (rm : X86RM) (r : BitVec 3) (imm : BitVec 8) (s : State) : Result :=
  x86Do (.x86ShrdImm rm r imm) (fun x => x.atOpSize fun w => shrdBody w rm (x.readReg w r) (imm.toNat % 32) x) s

/-- SHRD r/m, r, CL (R278). -/
def execX86ShrdCl (rm : X86RM) (r : BitVec 3) (s : State) : Result :=
  x86Do (.x86ShrdCl rm r) (fun x =>
    x.atOpSize fun w => shrdBody w rm (x.readReg w r) ((x.readReg 8 ecx).toNat % 32) x) s

/-- XCHG of an r/m operand and a register (R282): the r/m operand is written first, so that its effective address is
that of the registers before (R251). -/
def xchgBody (w : Nat) (rm : X86RM) (r : BitVec 3) (x : X86State) : Body X86State :=
  match x.readRM w rm with
  | .error e => .error e
  | .ok t =>
    match x.writeRM rm (x.readReg w r) with
    | .ok y => .ok (y.writeReg r t)
    | .error e => .error e

/-- XCHG AX, r16 and XCHG EAX, r32 (R282). -/
def execX86XchgAxR (r : BitVec 3) (s : State) : Result :=
  x86Do (.x86XchgAxR r) (fun x => x.atOpSize fun w => xchgBody w (.reg r) eax x) s

/-- XCHG r/m8, r8 (R282). -/
def execX86XchgRm8R8 (rm : X86RM) (r : BitVec 3) (s : State) : Result :=
  x86Do (.x86XchgRm8R8 rm r) (xchgBody 8 rm r) s

/-- XCHG r/m16, r16 and XCHG r/m32, r32 (R282). -/
def execX86XchgRmR (rm : X86RM) (r : BitVec 3) (s : State) : Result :=
  x86Do (.x86XchgRmR rm r) (fun x => x.atOpSize fun w => xchgBody w rm r x) s

end Sys2Proof.Machine
end

