-- ==== Sys2Proof/Machine/X86Stack.lean ====
section
/-! DEFINITION. The meanings of PUSH (spec/40_ia32.md R260 to R264) and POP (R286 to R289). -/

namespace Sys2Proof.Machine

/-- PUSH of a segment register's selector (R261): with `OperandSize` = 32 the upper half pushed is free (D13). -/
def pushSelector (g : X86Sreg) (x : X86State) : Body X86State :=
  x.guardPush
    (if x.op32 then (x.draw 16).2.push (bitsOf 32 [fd (x.draw 16).1, fd (x.segs.get g).sel])
     else x.push (x.segs.get g).sel)

/-- PUSH r/m16 and PUSH r/m32 (R260): the effective address uses ESP before the decrement. -/
def execX86PushRm (rm : X86RM) (s : State) : Result :=
  x86Do (.x86PushRm rm) (fun x => x.guardPush (x.atOpSize fun w =>
    match x.readRM w rm with
    | .ok v => x.push v
    | .error e => .error e)) s

/-- PUSH r16 and PUSH r32 (R260): PUSH ESP pushes the value before the decrement. -/
def execX86PushReg (r : BitVec 3) (s : State) : Result :=
  x86Do (.x86PushReg r) (fun x => x.guardPush (x.atOpSize fun w => x.push (x.readReg w r))) s

/-- PUSH imm8 (R260, D10). -/
def execX86PushImm8 (imm : BitVec 8) (s : State) : Result :=
  x86Do (.x86PushImm8 imm) (fun x => x.guardPush (x.atOpSize fun w => x.push (immSext w imm))) s

/-- PUSH imm16 and PUSH imm32 (R260). -/
def execX86PushImm (imm : BitVec 32) (s : State) : Result :=
  x86Do (.x86PushImm imm) (fun x => x.guardPush (x.atOpSize fun w => x.push (immOp w imm))) s

/-- PUSH CS (R261). -/
def execX86PushCs (s : State) : Result := x86Do .x86PushCs (pushSelector .cs) s

/-- PUSH SS (R261). -/
def execX86PushSs (s : State) : Result := x86Do .x86PushSs (pushSelector .ss) s

/-- PUSH DS (R261). -/
def execX86PushDs (s : State) : Result := x86Do .x86PushDs (pushSelector .ds) s

/-- PUSH ES (R261). -/
def execX86PushEs (s : State) : Result := x86Do .x86PushEs (pushSelector .es) s

/-- PUSH FS (R261). -/
def execX86PushFs (s : State) : Result := x86Do .x86PushFs (pushSelector .fs) s

/-- PUSH GS (R261). -/
def execX86PushGs (s : State) : Result := x86Do .x86PushGs (pushSelector .gs) s

/-- POP of `w` bits into memory (R286, R289): the effective address is computed after the increment; where the stack
pointer wrapped, X86_POP_WRAP_LOC says where the value goes. -/
def popToMem (w : Nat) (m : X86Mem) (x : X86State) : Body X86State :=
  match x.pop w with
  | .error e => .error e
  | .ok (v, y) =>
    if x.popWraps m (w / 8) then (y.wrapLoc m).2.writeSeg (y.wrapLoc m).1.1 (y.wrapLoc m).1.2 .write v
    else y.writeSeg (y.segOf m) (y.ea m) .write v

/-- POP of a segment register (R287): with `OperandSize` = 32 the upper half read is dropped (D13). -/
def popSelector (g : X86Sreg) (x : X86State) : Body X86State :=
  x.atOpSize fun w =>
    match x.pop w with
    | .ok (v, y) => y.loadSeg g (v.setWidth 16)
    | .error e => .error e

/-- The inhibit latch after POP SS (R288; spec/10_state.md R29): set; free when the instruction before had set it. -/
def X86State.inhibit (x : X86State) (was : Bool) : X86State :=
  if was then { (x.draw 1).2 with inhibitNext := (x.draw 1).1 == 1#1 } else { x with inhibitNext := true }

/-- POP m16 and POP m32 (R286). -/
def execX86PopMem (m : X86Mem) (s : State) : Result :=
  x86Do (.x86PopMem m) (fun x => x.atOpSize fun w => popToMem w m x) s

/-- POP r16 and POP r32 (R286): the popped value replaces the incremented pointer in POP ESP. -/
def execX86PopReg (r : BitVec 3) (s : State) : Result :=
  x86Do (.x86PopReg r) (fun x => x.atOpSize fun w =>
    match x.pop w with
    | .ok (v, y) => .ok (y.writeReg r v)
    | .error e => .error e) s

/-- POP DS (R287). -/
def execX86PopDs (s : State) : Result := x86Do .x86PopDs (popSelector .ds) s

/-- POP ES (R287). -/
def execX86PopEs (s : State) : Result := x86Do .x86PopEs (popSelector .es) s

/-- POP FS (R287). -/
def execX86PopFs (s : State) : Result := x86Do .x86PopFs (popSelector .fs) s

/-- POP GS (R287). -/
def execX86PopGs (s : State) : Result := x86Do .x86PopGs (popSelector .gs) s

/-- POP SS (R288). -/
def execX86PopSs (s : State) : Result :=
  x86Do .x86PopSs (fun x =>
    match popSelector .ss x with
    | .ok y => .ok (y.inhibit s.x86.inhibitNext)
    | .error e => .error e) s

end Sys2Proof.Machine
end

