-- ==== Sys2Proof/Machine/X86Prefixed.lean ====
section
/-! DEFINITION. The meanings of the P1 prefixes (spec/30_encoding.md R158): the prefix joins those in force and the
instruction after it runs (notes/assumptions/19.md). -/

namespace Sys2Proof.Machine

/-- The state with the prefixes `p` in force on the instruction in hand. -/
def State.withPfx (s : State) (p : X86Pfx) : State := { s with x86 := { s.x86 with pfx := p } }

/-- The operand-size prefix before what `run` does (R158); a second one is no instruction. -/
def opSizeThen (run : State → Result) (s : State) : Result :=
  if s.x86.pfx.op then .refused (.undecodable .repeatedPrefix)
  else run (s.withPfx { s.x86.pfx with op := true })

/-- The address-size prefix before what `run` does (R158); a second one is no instruction. -/
def addrSizeThen (run : State → Result) (s : State) : Result :=
  if s.x86.pfx.addr then .refused (.undecodable .repeatedPrefix)
  else run (s.withPfx { s.x86.pfx with addr := true })

/-- A segment override before what `run` does (R158); a second one is no instruction. -/
def overrideThen (g : X86Sreg) (run : State → Result) (s : State) : Result :=
  if s.x86.pfx.seg.isSome then .refused (.undecodable .secondOverride)
  else run (s.withPfx { s.x86.pfx with seg := some g })

/-- The instruction after a prefix, with the prefixes in force. -/
def x86Run : Instr → State → Result
  | .x86PushRm rm, s => execX86PushRm rm s
  | .x86PushReg r, s => execX86PushReg r s
  | .x86PushImm8 imm, s => execX86PushImm8 imm s
  | .x86PushImm imm, s => execX86PushImm imm s
  | .x86PushCs, s => execX86PushCs s
  | .x86PushSs, s => execX86PushSs s
  | .x86PushDs, s => execX86PushDs s
  | .x86PushEs, s => execX86PushEs s
  | .x86PushFs, s => execX86PushFs s
  | .x86PushGs, s => execX86PushGs s
  | .x86XorAlImm8 imm, s => execX86XorAlImm8 imm s
  | .x86XorAxImm imm, s => execX86XorAxImm imm s
  | .x86XorRm8Imm8 rm imm, s => execX86XorRm8Imm8 rm imm s
  | .x86XorRmImm rm imm, s => execX86XorRmImm rm imm s
  | .x86XorRmImm8 rm imm, s => execX86XorRmImm8 rm imm s
  | .x86XorRm8R8 rm r, s => execX86XorRm8R8 rm r s
  | .x86XorRmR rm r, s => execX86XorRmR rm r s
  | .x86XorR8Rm8 r rm, s => execX86XorR8Rm8 r rm s
  | .x86XorRRm r rm, s => execX86XorRRm r rm s
  | .x86MovRm8R8 rm r, s => execX86MovRm8R8 rm r s
  | .x86MovRmR rm r, s => execX86MovRmR rm r s
  | .x86MovR8Rm8 r rm, s => execX86MovR8Rm8 r rm s
  | .x86MovRRm r rm, s => execX86MovRRm r rm s
  | .x86MovRmSreg rm sr, s => execX86MovRmSreg rm sr s
  | .x86MovSregRm sr rm, s => execX86MovSregRm sr rm s
  | .x86MovAlMoffs off, s => execX86MovAlMoffs off s
  | .x86MovAxMoffs off, s => execX86MovAxMoffs off s
  | .x86MovMoffsAl off, s => execX86MovMoffsAl off s
  | .x86MovMoffsAx off, s => execX86MovMoffsAx off s
  | .x86MovR8Imm8 r imm, s => execX86MovR8Imm8 r imm s
  | .x86MovRImm r imm, s => execX86MovRImm r imm s
  | .x86MovRm8Imm8 rm imm, s => execX86MovRm8Imm8 rm imm s
  | .x86MovRmImm rm imm, s => execX86MovRmImm rm imm s
  | .x86AddAlImm8 imm, s => execX86AddAlImm8 imm s
  | .x86AddAxImm imm, s => execX86AddAxImm imm s
  | .x86AddRm8Imm8 rm imm, s => execX86AddRm8Imm8 rm imm s
  | .x86AddRmImm rm imm, s => execX86AddRmImm rm imm s
  | .x86AddRmImm8 rm imm, s => execX86AddRmImm8 rm imm s
  | .x86AddRm8R8 rm r, s => execX86AddRm8R8 rm r s
  | .x86AddRmR rm r, s => execX86AddRmR rm r s
  | .x86AddR8Rm8 r rm, s => execX86AddR8Rm8 r rm s
  | .x86AddRRm r rm, s => execX86AddRRm r rm s
  | .x86AdcAlImm8 imm, s => execX86AdcAlImm8 imm s
  | .x86AdcAxImm imm, s => execX86AdcAxImm imm s
  | .x86AdcRm8Imm8 rm imm, s => execX86AdcRm8Imm8 rm imm s
  | .x86AdcRmImm rm imm, s => execX86AdcRmImm rm imm s
  | .x86AdcRmImm8 rm imm, s => execX86AdcRmImm8 rm imm s
  | .x86AdcRm8R8 rm r, s => execX86AdcRm8R8 rm r s
  | .x86AdcRmR rm r, s => execX86AdcRmR rm r s
  | .x86AdcR8Rm8 r rm, s => execX86AdcR8Rm8 r rm s
  | .x86AdcRRm r rm, s => execX86AdcRRm r rm s
  | .x86Loop rel, s => execX86Loop rel s
  | .x86Loope rel, s => execX86Loope rel s
  | .x86Loopne rel, s => execX86Loopne rel s
  | .x86ShrdImm rm r imm, s => execX86ShrdImm rm r imm s
  | .x86ShrdCl rm r, s => execX86ShrdCl rm r s
  | .x86XchgAxR r, s => execX86XchgAxR r s
  | .x86XchgRm8R8 rm r, s => execX86XchgRm8R8 rm r s
  | .x86XchgRmR rm r, s => execX86XchgRmR rm r s
  | .x86PopMem m, s => execX86PopMem m s
  | .x86PopReg r, s => execX86PopReg r s
  | .x86PopDs, s => execX86PopDs s
  | .x86PopEs, s => execX86PopEs s
  | .x86PopFs, s => execX86PopFs s
  | .x86PopGs, s => execX86PopGs s
  | .x86PopSs, s => execX86PopSs s
  | .x86Ret, s => execX86Ret s
  | .x86RetImm imm, s => execX86RetImm imm s
  | .x86RetFar, s => execX86RetFar s
  | .x86RetFarImm imm, s => execX86RetFarImm imm s
  | .x86OpSize i, s => opSizeThen (x86Run i) s
  | .x86AddrSize i, s => addrSizeThen (x86Run i) s
  | .x86SegCs i, s => overrideThen .cs (x86Run i) s
  | .x86SegSs i, s => overrideThen .ss (x86Run i) s
  | .x86SegDs i, s => overrideThen .ds (x86Run i) s
  | .x86SegEs i, s => overrideThen .es (x86Run i) s
  | .x86SegFs i, s => overrideThen .fs (x86Run i) s
  | .x86SegGs i, s => overrideThen .gs (x86Run i) s
  | .x86Lock, s => execX86Lock s
  | _, _ => .refused .prefixedForeign

/-- The operand-size prefix 66 (R158). -/
def execX86OpSize (i : Instr) (s : State) : Result := opSizeThen (x86Run i) s

/-- The address-size prefix 67 (R158). -/
def execX86AddrSize (i : Instr) (s : State) : Result := addrSizeThen (x86Run i) s

/-- The CS override prefix 2E (R158). -/
def execX86SegCs (i : Instr) (s : State) : Result := overrideThen .cs (x86Run i) s

/-- The SS override prefix 36 (R158). -/
def execX86SegSs (i : Instr) (s : State) : Result := overrideThen .ss (x86Run i) s

/-- The DS override prefix 3E (R158). -/
def execX86SegDs (i : Instr) (s : State) : Result := overrideThen .ds (x86Run i) s

/-- The ES override prefix 26 (R158). -/
def execX86SegEs (i : Instr) (s : State) : Result := overrideThen .es (x86Run i) s

/-- The FS override prefix 64 (R158). -/
def execX86SegFs (i : Instr) (s : State) : Result := overrideThen .fs (x86Run i) s

/-- The GS override prefix 65 (R158). -/
def execX86SegGs (i : Instr) (s : State) : Result := overrideThen .gs (x86Run i) s

end Sys2Proof.Machine
end

