-- ==== Sys2Proof/Machine/Dispatch.lean ====
section
/-! DEFINITION. One arm per instruction: a direct call of its meaning. -/

namespace Sys2Proof.Machine

def exec (i : Instr) (s : State) : Host.Outcome State Fault Refusal :=
  match i with
  | .x86PushRm rm => Sys2Proof.Machine.execX86PushRm rm s
  | .x86PushReg r => Sys2Proof.Machine.execX86PushReg r s
  | .x86PushImm8 imm => Sys2Proof.Machine.execX86PushImm8 imm s
  | .x86PushImm imm => Sys2Proof.Machine.execX86PushImm imm s
  | .x86PushCs => Sys2Proof.Machine.execX86PushCs s
  | .x86PushSs => Sys2Proof.Machine.execX86PushSs s
  | .x86PushDs => Sys2Proof.Machine.execX86PushDs s
  | .x86PushEs => Sys2Proof.Machine.execX86PushEs s
  | .x86PushFs => Sys2Proof.Machine.execX86PushFs s
  | .x86PushGs => Sys2Proof.Machine.execX86PushGs s
  | .x86XorAlImm8 imm => Sys2Proof.Machine.execX86XorAlImm8 imm s
  | .x86XorAxImm imm => Sys2Proof.Machine.execX86XorAxImm imm s
  | .x86XorRm8Imm8 rm imm => Sys2Proof.Machine.execX86XorRm8Imm8 rm imm s
  | .x86XorRmImm rm imm => Sys2Proof.Machine.execX86XorRmImm rm imm s
  | .x86XorRmImm8 rm imm => Sys2Proof.Machine.execX86XorRmImm8 rm imm s
  | .x86XorRm8R8 rm r => Sys2Proof.Machine.execX86XorRm8R8 rm r s
  | .x86XorRmR rm r => Sys2Proof.Machine.execX86XorRmR rm r s
  | .x86XorR8Rm8 r rm => Sys2Proof.Machine.execX86XorR8Rm8 r rm s
  | .x86XorRRm r rm => Sys2Proof.Machine.execX86XorRRm r rm s
  | .x86MovRm8R8 rm r => Sys2Proof.Machine.execX86MovRm8R8 rm r s
  | .x86MovRmR rm r => Sys2Proof.Machine.execX86MovRmR rm r s
  | .x86MovR8Rm8 r rm => Sys2Proof.Machine.execX86MovR8Rm8 r rm s
  | .x86MovRRm r rm => Sys2Proof.Machine.execX86MovRRm r rm s
  | .x86MovRmSreg rm sr => Sys2Proof.Machine.execX86MovRmSreg rm sr s
  | .x86MovSregRm sr rm => Sys2Proof.Machine.execX86MovSregRm sr rm s
  | .x86MovAlMoffs off => Sys2Proof.Machine.execX86MovAlMoffs off s
  | .x86MovAxMoffs off => Sys2Proof.Machine.execX86MovAxMoffs off s
  | .x86MovMoffsAl off => Sys2Proof.Machine.execX86MovMoffsAl off s
  | .x86MovMoffsAx off => Sys2Proof.Machine.execX86MovMoffsAx off s
  | .x86MovR8Imm8 r imm => Sys2Proof.Machine.execX86MovR8Imm8 r imm s
  | .x86MovRImm r imm => Sys2Proof.Machine.execX86MovRImm r imm s
  | .x86MovRm8Imm8 rm imm => Sys2Proof.Machine.execX86MovRm8Imm8 rm imm s
  | .x86MovRmImm rm imm => Sys2Proof.Machine.execX86MovRmImm rm imm s
  | .x86AddAlImm8 imm => Sys2Proof.Machine.execX86AddAlImm8 imm s
  | .x86AddAxImm imm => Sys2Proof.Machine.execX86AddAxImm imm s
  | .x86AddRm8Imm8 rm imm => Sys2Proof.Machine.execX86AddRm8Imm8 rm imm s
  | .x86AddRmImm rm imm => Sys2Proof.Machine.execX86AddRmImm rm imm s
  | .x86AddRmImm8 rm imm => Sys2Proof.Machine.execX86AddRmImm8 rm imm s
  | .x86AddRm8R8 rm r => Sys2Proof.Machine.execX86AddRm8R8 rm r s
  | .x86AddRmR rm r => Sys2Proof.Machine.execX86AddRmR rm r s
  | .x86AddR8Rm8 r rm => Sys2Proof.Machine.execX86AddR8Rm8 r rm s
  | .x86AddRRm r rm => Sys2Proof.Machine.execX86AddRRm r rm s
  | .x86AdcAlImm8 imm => Sys2Proof.Machine.execX86AdcAlImm8 imm s
  | .x86AdcAxImm imm => Sys2Proof.Machine.execX86AdcAxImm imm s
  | .x86AdcRm8Imm8 rm imm => Sys2Proof.Machine.execX86AdcRm8Imm8 rm imm s
  | .x86AdcRmImm rm imm => Sys2Proof.Machine.execX86AdcRmImm rm imm s
  | .x86AdcRmImm8 rm imm => Sys2Proof.Machine.execX86AdcRmImm8 rm imm s
  | .x86AdcRm8R8 rm r => Sys2Proof.Machine.execX86AdcRm8R8 rm r s
  | .x86AdcRmR rm r => Sys2Proof.Machine.execX86AdcRmR rm r s
  | .x86AdcR8Rm8 r rm => Sys2Proof.Machine.execX86AdcR8Rm8 r rm s
  | .x86AdcRRm r rm => Sys2Proof.Machine.execX86AdcRRm r rm s
  | .x86Loop rel => Sys2Proof.Machine.execX86Loop rel s
  | .x86Loope rel => Sys2Proof.Machine.execX86Loope rel s
  | .x86Loopne rel => Sys2Proof.Machine.execX86Loopne rel s
  | .x86ShrdImm rm r imm => Sys2Proof.Machine.execX86ShrdImm rm r imm s
  | .x86ShrdCl rm r => Sys2Proof.Machine.execX86ShrdCl rm r s
  | .x86XchgAxR r => Sys2Proof.Machine.execX86XchgAxR r s
  | .x86XchgRm8R8 rm r => Sys2Proof.Machine.execX86XchgRm8R8 rm r s
  | .x86XchgRmR rm r => Sys2Proof.Machine.execX86XchgRmR rm r s
  | .x86PopMem m => Sys2Proof.Machine.execX86PopMem m s
  | .x86PopReg r => Sys2Proof.Machine.execX86PopReg r s
  | .x86PopDs => Sys2Proof.Machine.execX86PopDs s
  | .x86PopEs => Sys2Proof.Machine.execX86PopEs s
  | .x86PopFs => Sys2Proof.Machine.execX86PopFs s
  | .x86PopGs => Sys2Proof.Machine.execX86PopGs s
  | .x86PopSs => Sys2Proof.Machine.execX86PopSs s
  | .x86Ret => Sys2Proof.Machine.execX86Ret s
  | .x86RetImm imm => Sys2Proof.Machine.execX86RetImm imm s
  | .x86RetFar => Sys2Proof.Machine.execX86RetFar s
  | .x86RetFarImm imm => Sys2Proof.Machine.execX86RetFarImm imm s
  | .x86OpSize j => Sys2Proof.Machine.execX86OpSize j s
  | .x86AddrSize j => Sys2Proof.Machine.execX86AddrSize j s
  | .x86SegCs j => Sys2Proof.Machine.execX86SegCs j s
  | .x86SegSs j => Sys2Proof.Machine.execX86SegSs j s
  | .x86SegDs j => Sys2Proof.Machine.execX86SegDs j s
  | .x86SegEs j => Sys2Proof.Machine.execX86SegEs j s
  | .x86SegFs j => Sys2Proof.Machine.execX86SegFs j s
  | .x86SegGs j => Sys2Proof.Machine.execX86SegGs j s
  | .x86Lock => Sys2Proof.Machine.execX86Lock s
  | .armSubImm cond sb rn rd rot imm => Sys2Proof.Machine.execArmSubImm cond sb rn rd rot imm s
  | .armSubLsl cond sb rn rd sh rm => Sys2Proof.Machine.execArmSubLsl cond sb rn rd sh rm s
  | .armSubLsr cond sb rn rd sh rm => Sys2Proof.Machine.execArmSubLsr cond sb rn rd sh rm s
  | .armAddImm cond sb rn rd rot imm => Sys2Proof.Machine.execArmAddImm cond sb rn rd rot imm s
  | .armAddLsl cond sb rn rd sh rm => Sys2Proof.Machine.execArmAddLsl cond sb rn rd sh rm s
  | .armAddLsr cond sb rn rd sh rm => Sys2Proof.Machine.execArmAddLsr cond sb rn rd sh rm s
  | .armAdcImm cond sb rn rd rot imm => Sys2Proof.Machine.execArmAdcImm cond sb rn rd rot imm s
  | .armAdcLsl cond sb rn rd sh rm => Sys2Proof.Machine.execArmAdcLsl cond sb rn rd sh rm s
  | .armAdcLsr cond sb rn rd sh rm => Sys2Proof.Machine.execArmAdcLsr cond sb rn rd sh rm s
  | .armOrrImm cond sb rn rd rot imm => Sys2Proof.Machine.execArmOrrImm cond sb rn rd rot imm s
  | .armOrrLsl cond sb rn rd sh rm => Sys2Proof.Machine.execArmOrrLsl cond sb rn rd sh rm s
  | .armOrrLsr cond sb rn rd sh rm => Sys2Proof.Machine.execArmOrrLsr cond sb rn rd sh rm s
  | .armMovImm cond sb rd rot imm => Sys2Proof.Machine.execArmMovImm cond sb rd rot imm s
  | .armMovLsl cond sb rd sh rm => Sys2Proof.Machine.execArmMovLsl cond sb rd sh rm s
  | .armMovLsr cond sb rd sh rm => Sys2Proof.Machine.execArmMovLsr cond sb rd sh rm s
  | .armLdrImm cond mode up rn rd off => Sys2Proof.Machine.execArmLdrImm cond mode up rn rd off s
  | .armLdrReg cond mode up rn rd sh rm => Sys2Proof.Machine.execArmLdrReg cond mode up rn rd sh rm s
  | .armB cond off => Sys2Proof.Machine.execArmB cond off s
  | .armBl cond off => Sys2Proof.Machine.execArmBl cond off s
  | .armBx cond rm => Sys2Proof.Machine.execArmBx cond rm s
  | .ppcAddi rD rA simm => Sys2Proof.Machine.execPpcAddi rD rA simm s
  | .ppcLi rD simm => Sys2Proof.Machine.execPpcLi rD simm s
  | .ppcBc bo bi bd aa lk => Sys2Proof.Machine.execPpcBc bo bi bd aa lk s
  | .ppcBclr bo bi lk => Sys2Proof.Machine.execPpcBclr bo bi lk s
  | .ppcBlr => Sys2Proof.Machine.execPpcBlr s
  | .ppcRlwimi rA rS sh mb me rc => Sys2Proof.Machine.execPpcRlwimi rA rS sh mb me rc s
  | .ppcRlwinm rA rS sh mb me rc => Sys2Proof.Machine.execPpcRlwinm rA rS sh mb me rc s
  | .ppcAddc rD rA rB oe rc => Sys2Proof.Machine.execPpcAddc rD rA rB oe rc s
  | .ppcAddze rD rA oe rc => Sys2Proof.Machine.execPpcAddze rD rA oe rc s
  | .ppcMtspr spr rS => Sys2Proof.Machine.execPpcMtspr spr rS s
  | .ppcMtxer rS => Sys2Proof.Machine.execPpcMtxer rS s
  | .ppcMtlr rS => Sys2Proof.Machine.execPpcMtlr rS s
  | .ppcMtctr rS => Sys2Proof.Machine.execPpcMtctr rS s
  | .ppcLwzu rD rA d => Sys2Proof.Machine.execPpcLwzu rD rA d s
  | .sparcBicc a cond disp => Sys2Proof.Machine.execSparcBicc a cond disp s
  | .sparcSethi imm rd => Sys2Proof.Machine.execSparcSethi imm rd s
  | .sparcNop => Sys2Proof.Machine.execSparcNop s
  | .sparcAdd rs1 op2 rd => Sys2Proof.Machine.execSparcAdd rs1 op2 rd s
  | .sparcOr rs1 op2 rd => Sys2Proof.Machine.execSparcOr rs1 op2 rd s
  | .sparcAddx rs1 op2 rd => Sys2Proof.Machine.execSparcAddx rs1 op2 rd s
  | .sparcAddcc rs1 op2 rd => Sys2Proof.Machine.execSparcAddcc rs1 op2 rd s
  | .sparcSubcc rs1 op2 rd => Sys2Proof.Machine.execSparcSubcc rs1 op2 rd s
  | .sparcSll rs1 op2 rd => Sys2Proof.Machine.execSparcSll rs1 op2 rd s
  | .sparcSrl rs1 op2 rd => Sys2Proof.Machine.execSparcSrl rs1 op2 rd s
  | .sparcJmpl rs1 op2 rd => Sys2Proof.Machine.execSparcJmpl rs1 op2 rd s
  | .sparcLd rs1 op2 rd => Sys2Proof.Machine.execSparcLd rs1 op2 rd s
  | .sparcCmp rs1 op2 => Sys2Proof.Machine.execSparcCmp rs1 op2 s
  | .sparcJmp rs1 op2 => Sys2Proof.Machine.execSparcJmp rs1 op2 s
  | .sparcCall rs1 op2 => Sys2Proof.Machine.execSparcCall rs1 op2 s
  | .sparcRet => Sys2Proof.Machine.execSparcRet s
  | .sparcRetl => Sys2Proof.Machine.execSparcRetl s
  | .sparcMov op2 rd => Sys2Proof.Machine.execSparcMov op2 rd s
  | .mipsAddiu rt rs imm => Sys2Proof.Machine.execMipsAddiu rt rs imm s
  | .mipsOri rt rs imm => Sys2Proof.Machine.execMipsOri rt rs imm s
  | .mipsLw rt off base => Sys2Proof.Machine.execMipsLw rt off base s
  | .mipsBne rs rt off => Sys2Proof.Machine.execMipsBne rs rt off s
  | .mipsAddu rd rs rt => Sys2Proof.Machine.execMipsAddu rd rs rt s
  | .mipsSltu rd rs rt => Sys2Proof.Machine.execMipsSltu rd rs rt s
  | .mipsJrPre rs => Sys2Proof.Machine.execMipsJrPre rs s
  | .mipsJrR6 rs => Sys2Proof.Machine.execMipsJrR6 rs s
  | .mipsExt rt rs msbd lsb => Sys2Proof.Machine.execMipsExt rt rs msbd lsb s
  | .mipsIns rt rs msb lsb => Sys2Proof.Machine.execMipsIns rt rs msb lsb s
  | .mipsMove rd rs => Sys2Proof.Machine.execMipsMove rd rs s
  | .mipsLiAddiu rt imm => Sys2Proof.Machine.execMipsLiAddiu rt imm s
  | .mipsLiOri rt imm => Sys2Proof.Machine.execMipsLiOri rt imm s
  | .rvLh rd off rs1 => Sys2Proof.Machine.execRvLh rd off rs1 s
  | .rvLw rd off rs1 => Sys2Proof.Machine.execRvLw rd off rs1 s
  | .rvLd rd off rs1 => Sys2Proof.Machine.execRvLd rd off rs1 s
  | .rvLhu rd off rs1 => Sys2Proof.Machine.execRvLhu rd off rs1 s
  | .rvLwu rd off rs1 => Sys2Proof.Machine.execRvLwu rd off rs1 s
  | .rvAddi rd rs1 imm => Sys2Proof.Machine.execRvAddi rd rs1 imm s
  | .rvSlli rd rs1 shamt => Sys2Proof.Machine.execRvSlli rd rs1 shamt s
  | .rvSlti rd rs1 imm => Sys2Proof.Machine.execRvSlti rd rs1 imm s
  | .rvSltiu rd rs1 imm => Sys2Proof.Machine.execRvSltiu rd rs1 imm s
  | .rvSrli rd rs1 shamt => Sys2Proof.Machine.execRvSrli rd rs1 shamt s
  | .rvOri rd rs1 imm => Sys2Proof.Machine.execRvOri rd rs1 imm s
  | .rvAddiw rd rs1 imm => Sys2Proof.Machine.execRvAddiw rd rs1 imm s
  | .rvSlliw rd rs1 shamt => Sys2Proof.Machine.execRvSlliw rd rs1 shamt s
  | .rvSrliw rd rs1 shamt => Sys2Proof.Machine.execRvSrliw rd rs1 shamt s
  | .rvSb rs2 off rs1 => Sys2Proof.Machine.execRvSb rs2 off rs1 s
  | .rvSh rs2 off rs1 => Sys2Proof.Machine.execRvSh rs2 off rs1 s
  | .rvSw rs2 off rs1 => Sys2Proof.Machine.execRvSw rs2 off rs1 s
  | .rvAdd rd rs1 rs2 => Sys2Proof.Machine.execRvAdd rd rs1 rs2 s
  | .rvSll rd rs1 rs2 => Sys2Proof.Machine.execRvSll rd rs1 rs2 s
  | .rvSlt rd rs1 rs2 => Sys2Proof.Machine.execRvSlt rd rs1 rs2 s
  | .rvSltu rd rs1 rs2 => Sys2Proof.Machine.execRvSltu rd rs1 rs2 s
  | .rvSrl rd rs1 rs2 => Sys2Proof.Machine.execRvSrl rd rs1 rs2 s
  | .rvOr rd rs1 rs2 => Sys2Proof.Machine.execRvOr rd rs1 rs2 s
  | .rvLui rd imm => Sys2Proof.Machine.execRvLui rd imm s
  | .rvAddw rd rs1 rs2 => Sys2Proof.Machine.execRvAddw rd rs1 rs2 s
  | .rvSllw rd rs1 rs2 => Sys2Proof.Machine.execRvSllw rd rs1 rs2 s
  | .rvSraw rd rs1 rs2 => Sys2Proof.Machine.execRvSraw rd rs1 rs2 s
  | .rvRemw rd rs1 rs2 => Sys2Proof.Machine.execRvRemw rd rs1 rs2 s
  | .rvRemuw rd rs1 rs2 => Sys2Proof.Machine.execRvRemuw rd rs1 rs2 s
  | .rvBne rs1 rs2 off => Sys2Proof.Machine.execRvBne rs1 rs2 off s
  | .rvLrW aq rl rd rs1 => Sys2Proof.Machine.execRvLrW aq rl rd rs1 s
  | .rvLrD aq rl rd rs1 => Sys2Proof.Machine.execRvLrD aq rl rd rs1 s
  | .rvScD aq rl rd rs2 rs1 => Sys2Proof.Machine.execRvScD aq rl rd rs2 rs1 s
  | .rvAmoaddD aq rl rd rs2 rs1 => Sys2Proof.Machine.execRvAmoaddD aq rl rd rs2 rs1 s
  | .rvMret => Sys2Proof.Machine.execRvMret s
  | .rvSret => Sys2Proof.Machine.execRvSret s
  | .rvNeg rd rs2 => Sys2Proof.Machine.execRvNeg rd rs2 s
  | .rvNegw rd rs2 => Sys2Proof.Machine.execRvNegw rd rs2 s
  | .rvNot rd rs1 => Sys2Proof.Machine.execRvNot rd rs1 s
  | .rvRdcycle rd => Sys2Proof.Machine.execRvRdcycle rd s
  | .rvRet => Sys2Proof.Machine.execRvRet s
  | .rvNop => Sys2Proof.Machine.execRvNop s
  | .rvBnez rs1 off => Sys2Proof.Machine.execRvBnez rs1 off s
  | .rvLi rd imm => Sys2Proof.Machine.execRvLi rd imm s
  | .rvCAdd rd rs2 => Sys2Proof.Machine.execRvCAdd rd rs2 s
  | .rvCAddi rd imm => Sys2Proof.Machine.execRvCAddi rd imm s
  | .rvCAddi16sp imm => Sys2Proof.Machine.execRvCAddi16sp imm s
  | .rvCAddi4spn rd uimm => Sys2Proof.Machine.execRvCAddi4spn rd uimm s

end Sys2Proof.Machine
end

