-- ==== Sys2Proof/Machine/Fetch.lean ====
section
/-! DEFINITION. Fetching an instruction's bytes and decoding them, part by part; what a step does before it fetches;
and the placing of an instruction where the next step fetches. -/

namespace Sys2Proof.Machine

/-! ### Fetch -/

/-- A decoder's answer as a fetch's: an undecodable encoding is refused (spec/30_encoding.md R240). -/
def decoded (d : Decoded Instr) : Except (Stop State) Instr :=
  match d with
  | .ok i => .ok i
  | .error e => .error (.refuses (.undecodable e))

/-- One code byte of P1 (spec/20_memory.md R109): what X86_SEG answers for it, and not stored to by the program
(R127). -/
def X86State.codeByte (x : X86State) (off : Word) : Except (Stop State) Byte :=
  match x.xseg .cs off 1 .fetch with
  | .error e => .error (.raises (.x86 e))
  | .ok a => if x.stored.contains a.toNat then .error (.refuses .fetchOfStored) else .ok (x.mem.get a.toNat)

/-- Up to `n` code bytes from `off` up, and what stopped the fetch of the next one. -/
def X86State.codeBytes (x : X86State) : Nat → Word → List Byte × Option (Stop State)
  | 0, _ => ([], none)
  | n + 1, off =>
    match x.codeByte off with
    | .error e => ([], some e)
    | .ok b => (b :: (x.codeBytes n (off + 1)).1, (x.codeBytes n (off + 1)).2)

/-- More bytes than any P1 instruction of the opcode table has. -/
abbrev x86MaxLength : Nat := 15

/-- The P1 instruction at CS:EIP (spec/40_ia32.md R250). A byte that cannot be fetched matters when the instruction
needs it. -/
def X86State.fetch (x : X86State) : Except (Stop State) Instr :=
  let r := x.codeBytes x86MaxLength x.eip
  match decode .p1 x.segs.cs.desc.big (.bytes r.1), r.2 with
  | .error .short, some e => .error e
  | d, _ => decoded d

/-- The P2 instruction at the PC (spec/41_arm.md R330; spec/20_memory.md R113). -/
def ArmState.fetch (a : ArmState) : Except (Stop State) Instr :=
  if a.t then .error (.refuses .thumb)
  else if a.pc.extractLsb' 0 2 ≠ 0#2 then .error (.refuses .armPcLowBits)
  else decoded (decode .p2 false (.word (a.mem.read a.params.order top32 32 a.pc.toNat)))

/-- The P3 instruction at CIA (spec/42_powerpc.md R390). -/
def PpcState.fetch (p : PpcState) : Except (Stop State) Instr :=
  decoded (decode .p3 false (.word (p.mem.read .big top32 32 p.cia.toNat)))

/-- The P4 instruction at PC (spec/43_sparc.md R450). -/
def SparcState.fetch (p : SparcState) : Except (Stop State) Instr :=
  decoded (decode .p4 false (.word (p.mem.read .big top32 32 p.pc.toNat)))

/-- The P5 instruction at PC (spec/44_mips32.md R530): Address Error at an unaligned PC. That the PC is not translated,
so that a fetch takes no fault of MIPS_XLATE, is the model's DESIGN CHOICE (notes/assumptions/52.md). -/
def MipsState.fetch (p : MipsState) : Except (Stop State) Instr :=
  if p.isaMode = 1#1 then .error (.refuses .mipsIsaMode)
  else if p.pc.extractLsb' 0 2 ≠ 0#2 then .error (.raises (.mipsAddressError none))
  else decoded (decode .p5 false (.word (p.mem.read p.params.order top32 32 p.pc.toNat)))

/-- The program has stored to one of the `n` bytes at the P6 pc (spec/20_memory.md R127). -/
def RvState.codeStored (p : RvState) (n : Nat) : Bool := anyByte p.top p.pc.toNat n fun b => p.stored.contains b

/-- The P6 instruction at pc (spec/45_riscv.md R580): a halfword, and the next one when the low two bits are 11. That a
pc which no transfer of control may reach (R628) is fetched from all the same is the model's choice
(notes/assumptions/46.md). -/
def RvState.fetch (p : RvState) : Except (Stop State) Instr :=
  let h : Half := p.mem.read .little p.top 16 p.pc.toNat
  if p.codeStored 2 then .error (.refuses .fetchOfStored)
  else if h.extractLsb' 0 2 ≠ 3#2 then decoded (decode .p6 false (.half h))
  else if p.codeStored 4 then .error (.refuses .fetchOfStored)
  else decoded (decode .p6 false (.word (p.mem.read .little p.top 32 p.pc.toNat)))

/-- The instruction that the next step executes. -/
def fetch (s : State) : Except (Stop State) Instr :=
  match s.part with
  | .p1 => s.x86.fetch
  | .p2 => s.arm.fetch
  | .p3 => s.ppc.fetch
  | .p4 => s.sparc.fetch
  | .p5 => s.mips.fetch
  | .p6 => s.rv.fetch

/-! ### Steps that execute no instruction -/

/-- An annulled delay instruction: only PC and nPC move (spec/43_sparc.md R450; spec/10_state.md R49). -/
def SparcState.skipped (p : SparcState) : SparcState := { p.advance with annulNext := false }

/-- What a step answers before it looks at an instruction: P1 after a shutdown is stuck (spec/40_ia32.md R250), P4
skips an annulled instruction. -/
def beforeFetch (s : State) : Option Result :=
  match s.part with
  | .p1 => if s.x86.shutdown then some (.fault (.stuck s)) else none
  | .p4 => if s.sparc.annulNext then some (.next { s with sparc := s.sparc.skipped }) else none
  | _ => none

/-! ### Placing an instruction where the next step fetches (notes/assumptions/36.md) -/

/-- The addresses from `a` up to `a + n`, modulo `top`, no longer count as stored to. -/
def StoredSet.forget (top : Nat) (l : StoredSet) (a n : Nat) : StoredSet :=
  l.filter fun k => !(anyByte top a n fun b => b == k)

/-- Bytes at CS:EIP, with the 32-bit code segment under which the table is read. Where X86_SEG is another instance
than base plus offset without paging rules, it is made that one. -/
def X86State.place (x : X86State) (l : List Byte) : X86State :=
  let a := (x.segs.cs.desc.base + x.eip).toNat
  { x with
    segs := { x.segs with cs := { x.segs.cs with desc := { x.segs.cs.desc with big := true } } }
    shutdown := false
    params := { x.params with seg := .based [] }
    mem := x.mem.putBytes top32 a l
    stored := x.stored.forget top32 a l.length }

/-- A word at the PC, T = 0. -/
def ArmState.place (a : ArmState) (w : Word) : ArmState :=
  { a with cpsr := putBit a.cpsr 5 false, mem := a.mem.write a.params.order top32 32 a.pc.toNat w }

/-- A word at CIA. -/
def PpcState.place (p : PpcState) (w : Word) : PpcState := { p with mem := p.mem.write .big top32 32 p.cia.toNat w }

/-- A word at PC, not annulled. -/
def SparcState.place (p : SparcState) (w : Word) : SparcState :=
  { p with annulNext := false, mem := p.mem.write .big top32 32 p.pc.toNat w }

/-- A word at PC, ISAMode = 0; for the Release 6 JR word the release in which it is JR. -/
def MipsState.place (p : MipsState) (w : Word) (i : Option Instr) : MipsState :=
  let r := match i with
    | some (.mipsJrR6 _) => .r6
    | some (.mipsJrPre _) => if p.params.release = .r6 then .r2 else p.params.release
    | _ => p.params.release
  { p with isaMode := 0, params := { p.params with release := r },
           mem := p.mem.write p.params.order top32 32 p.pc.toNat w }

/-- A word at pc. -/
def RvState.placeWord (p : RvState) (w : Word) : RvState :=
  { p with mem := p.mem.write .little p.top 32 p.pc.toNat w, stored := p.stored.forget p.top p.pc.toNat 4 }

/-- A halfword at pc. -/
def RvState.placeHalf (p : RvState) (h : Half) : RvState :=
  { p with mem := p.mem.write .little p.top 16 p.pc.toNat h, stored := p.stored.forget p.top p.pc.toNat 2 }

/-- The code of an instruction where the next step of a part fetches; the part runs. -/
def State.placeCode (s : State) (p : Part) (c : Code) (i : Option Instr) : State :=
  match p, c with
  | .p2, .word w => { s with part := .p2, arm := s.arm.place w }
  | .p3, .word w => { s with part := .p3, ppc := s.ppc.place w }
  | .p4, .word w => { s with part := .p4, sparc := s.sparc.place w }
  | .p5, .word w => { s with part := .p5, mips := s.mips.place w i }
  | .p6, .word w => { s with part := .p6, rv := s.rv.placeWord w }
  | .p6, .half h => { s with part := .p6, rv := s.rv.placeHalf h }
  | _, .bytes l => { s with part := .p1, x86 := s.x86.place l }
  | _, _ => s

/-- The part and code that a table word stands for; bits that decode nowhere are P1 bytes. -/
def tablePlace (nbits w : Nat) : Part × Code × Option Instr :=
  match tableDecode nbits w with
  | some (p, c, i) => (p, c, some i)
  | none => (.p1, .bytes (tableBytes nbits w), none)

end Sys2Proof.Machine
end

