-- ==== Sys2Proof/Machine/Step.lean ====
section
/-! DEFINITION. One step of the part that runs: spec/40_ia32.md R250, spec/41_arm.md R330, spec/42_powerpc.md R390,
spec/43_sparc.md R450, spec/44_mips32.md R530, spec/45_riscv.md R580. There is no asynchronous event
(spec/60_exceptions.md R690). -/

namespace Sys2Proof.Machine

/-- One step: what happens before the fetch, or the instruction fetched and executed. -/
def step (s : State) : Host.Outcome State Fault Refusal :=
  match beforeFetch s with
  | some r => r
  | none =>
    match fetch s with
    | .ok i => exec i s
    | .error e => finish s id (.error e)

/-- `s` with an instruction of spec/opcode_table.json stored where `step` fetches next. -/
def State.withFetchWord (s : State) (nbits w : Nat) : State :=
  s.placeCode (tablePlace nbits w).1 (tablePlace nbits w).2.1 (tablePlace nbits w).2.2

end Sys2Proof.Machine
end

