-- ==== Sys2Proof/Safety.lean ====
section
/-! DEFINITION. The words that claims about the machine use: the invariant of each part, when an access is allowed, what
an instruction leaves unchanged, and "it completes". No definition here is part of the step. -/

namespace Sys2Proof.Machine

/-! ### Memory -/

/-- Every byte reads as before. -/
def Memory.Same (m m' : Memory) : Prop := ∀ a, Memory.get m' a = Memory.get m a

/-- Every byte outside the `n` bytes from `a` up (addresses modulo `top`) reads as before. -/
def Memory.SameOutside (top : Nat) (m m' : Memory) (a n : Nat) : Prop :=
  ∀ b, (∀ j, j < n → b ≠ (a + j) % top) → Memory.get m' b = Memory.get m b

/-- The value `v` was stored at `a`: it reads back, and no other byte changed. -/
def Memory.Stored (o : ByteOrder) (top : Nat) (m m' : Memory) (a : Nat) (v : BitVec w) : Prop :=
  Memory.read o top w m' a = v ∧ Memory.SameOutside top m m' a (w / 8)

/-- An address lies in one of the regions (spec/00_scope.md R7: the address predicates). -/
abbrev InRegion (l : List Region) (a : Nat) : Prop := ∃ r ∈ l, r.base ≤ a ∧ a < r.base + r.size

/-! ### P1: when an access is allowed (spec/20_memory.md R104 to R107) -/

/-- Protected mode, the only one in which the list of R106 holds (spec/10_state.md R27). -/
abbrev X86State.Protected (x : X86State) : Prop := x.pe = true ∧ x.vm = false

/-- DS, ES, FS or GS holds a null selector (R106). -/
abbrev X86State.NullRef (x : X86State) (sg : X86Sreg) : Prop := faultsNull sg = true ∧ (x.segs.get sg).null = true

/-- A store into a segment that is not writable (R106). -/
abbrev X86State.ReadOnly (x : X86State) (sg : X86Sreg) (kind : X86Access) : Prop :=
  (kind = .write ∨ kind = .stackWrite) ∧ (x.segs.get sg).desc.writable = false

/-- One of the `n` bytes at `off`, taken modulo 2^32, is outside the segment limit (R106; that every byte is tested is
the model's DESIGN CHOICE, notes/assumptions/14.md). -/
abbrev X86State.Outside (x : X86State) (sg : X86Sreg) (off : Word) (n : Nat) : Prop :=
  ∃ j, j < n ∧ (x.segs.get sg).desc.limit.toNat < (off.toNat + j) % top32

/-- An unaligned reference at privilege level 3 with alignment checking enabled (R107). -/
abbrev X86State.Unaligned (x : X86State) (a : Word) (n : Nat) : Prop :=
  x.alignCheck = true ∧ x.cpl = 3#2 ∧ a.toNat % n ≠ 0

/-- The access to the `n` bytes at linear address `a` is page-faulting (R106). -/
abbrev X86State.Faulting (x : X86State) (a : Word) (n : Nat) (kind : X86Access) : Prop :=
  X86PageAnswer.code (x.pageOf a n kind) ≠ none

/-- No condition of R106 holds in protected mode, and outside it X86_SEG supplies no fault. -/
abbrev X86State.Allows (x : X86State) (sg : X86Sreg) (off : Word) (n : Nat) (kind : X86Access) : Prop :=
  (x.Protected → ¬ x.NullRef sg ∧ ¬ x.ReadOnly sg kind ∧ ¬ x.Outside sg off n ∧
    ¬ x.Unaligned (x.linearOf sg off n kind) n ∧ ¬ x.Faulting (x.linearOf sg off n kind) n kind) ∧
  (¬ x.Protected → x.unlistedFault sg off n kind = none)

/-- Where in memory X86_SEG puts the `n` bytes at `off` of segment `sg` (R104), for an access that it allows. -/
def X86State.locate (x : X86State) (sg : X86Sreg) (off : Word) (n : Nat) (kind : X86Access) : Word :=
  match x.xseg sg off n kind with
  | .ok a => a
  | .error _ => 0

/-- `OperandSize` (spec/10_state.md R28). -/
def X86State.opSize (x : X86State) : Nat := if x.op32 then 32 else 16

/-- `AddressSize` (spec/10_state.md R28). -/
def X86State.addrSize (x : X86State) : Nat := if x.addr32 then 32 else 16

/-- The address of `n` bytes of a memory operand. -/
def X86State.memAt (x : X86State) (m : X86Mem) (n : Nat) (kind : X86Access) : Nat :=
  (x.locate (x.segOf m) (x.ea m) n kind).toNat

/-- The r/m operand of `w` bits can be accessed. -/
abbrev X86State.Reaches (x : X86State) (w : Nat) (rm : X86RM) (kind : X86Access) : Prop :=
  match rm with
  | .reg _ => True
  | .mem m => x.Allows (x.segOf m) (x.ea m) (w / 8) kind

/-- The r/m operand of `w` bits can be read and written. -/
abbrev X86State.Updates (x : X86State) (w : Nat) (rm : X86RM) : Prop := x.Reaches w rm .read ∧ x.Reaches w rm .write

/-- The value of an r/m operand (spec/40_ia32.md R251). -/
def X86State.operand (w : Nat) (x : X86State) : X86RM → BitVec w
  | .reg n => x.readReg w n
  | .mem m => x.mem.read .little top32 w (x.memAt m (w / 8) .read)

/-- The address of `n` bytes of a moffs operand (spec/40_ia32.md R267). -/
def X86State.moffsAt (x : X86State) (off : BitVec 32) (n : Nat) (kind : X86Access) : Nat :=
  (x.locate x.moffsSeg (x.moffs off) n kind).toNat

/-- What X86_LOADSEG lists for a selector and a segment register (spec/40_ia32.md R287). -/
def X86State.Listed (x : X86State) (g : X86Sreg) (sel : Half) (a : X86SegLoad) : Prop :=
  (x.params.loadSegs.find? fun e => decide (e.sreg = g ∧ e.sel = sel)).map (fun e => e.result) = some a

/-- The address of the code byte at an offset (spec/20_memory.md R109). -/
def X86State.codeAt (x : X86State) (off : Word) : Nat := (x.locate .cs off 1 .fetch).toNat

/-- A code byte can be fetched at an offset (spec/20_memory.md R109, R127). -/
abbrev X86State.Fetchable (x : X86State) (off : Word) : Prop :=
  x.Allows .cs off 1 .fetch ∧ x.codeAt off ∉ x.stored

/-! ### P1: the stack (spec/10_state.md R22; spec/40_ia32.md R253, R254) -/

/-- The offset of the top of stack: ESP, or SP. -/
def X86State.topOfStack (x : X86State) : Word :=
  if x.stack32 then x.gpr32 esp else ((x.gpr32 esp).extractLsb' 0 16).setWidth 32

/-- The stack pointer `d` bytes up, modulo 2^32 on ESP and 2^16 on SP. -/
def X86State.stackUp (x : X86State) (d : Word) : Word :=
  if x.stack32 then x.gpr32 esp + d else ((x.gpr32 esp).extractLsb' 0 16 + d.setWidth 16).setWidth 32

/-- The stack pointer after a push of `n` bytes. -/
def X86State.pushTo (x : X86State) (n : Nat) : Word := x.stackUp (-(BitVec.ofNat 32 n))

/-- The stack pointer after a pop of `n` bytes. -/
def X86State.popTo (x : X86State) (n : Nat) : Word := x.stackUp (BitVec.ofNat 32 n)

/-- The part of the registers that is the stack pointer. -/
def X86State.stackPart (x : X86State) : Nat × BitVec 3 := (if x.stack32 then 32 else 16, esp)

/-- The `n` bytes at `off` do not straddle the end of a 16-bit stack (spec/20_memory.md R105). -/
abbrev X86State.InStack (x : X86State) (off : Word) (n : Nat) : Prop := x.stack32 = false → off.toNat + n ≤ 0x10000

/-- A PUSH in real-address mode with the stack pointer equal to 1 (spec/40_ia32.md R262). -/
abbrev X86State.Exhausted (x : X86State) : Prop := x.pe = false ∧ x.topOfStack = 1#32

/-- `n` bytes can be pushed. -/
abbrev X86State.CanPush (x : X86State) (n : Nat) : Prop :=
  ¬ x.Exhausted ∧ x.InStack (x.pushTo n) n ∧ x.Allows .ss (x.pushTo n) n .stackWrite

/-- `n` bytes can be popped. -/
abbrev X86State.CanPop (x : X86State) (n : Nat) : Prop :=
  x.InStack x.topOfStack n ∧ x.Allows .ss x.topOfStack n .stackRead

/-- The address of the `n` bytes at a stack offset. -/
def X86State.stackAt (x : X86State) (off : Word) (n : Nat) (kind : X86Access) : Nat :=
  (x.locate .ss off n kind).toNat

/-! ### P1: what an instruction leaves -/

/-- Bit `i` of 32-bit register `k` belongs to `reg_w[n]` (spec/10_state.md R21). -/
abbrev inPart (w : Nat) (n : BitVec 3) (k : BitVec 3) (i : Nat) : Prop :=
  k = (regHome w n).1 ∧ (regHome w n).2 ≤ i ∧ i < (regHome w n).2 + w

/-- Every register bit outside the listed parts keeps its value. -/
def X86State.KeepsRegs (parts : List (Nat × BitVec 3)) (x y : X86State) : Prop :=
  ∀ k i, (∀ e ∈ parts, ¬ inPart e.1 e.2 k i) → (y.gpr32 k).getLsbD i = (x.gpr32 k).getLsbD i

/-- The system bits, the shutdown latch and the parameters keep their value; no prefix is left in force. -/
def X86State.KeepsControl (x y : X86State) : Prop :=
  y.pe = x.pe ∧ y.vm = x.vm ∧ y.iopl = x.iopl ∧ y.cpl = x.cpl ∧ y.alignCheck = x.alignCheck ∧
  y.intEnable = x.intEnable ∧ y.shutdown = x.shutdown ∧ y.params = x.params ∧ y.pfx = .none

/-- All but the listed register parts, the flags, EIP and the memory keeps its value; the inhibit latch is clear. -/
def X86State.Keeps (parts : List (Nat × BitVec 3)) (x y : X86State) : Prop :=
  X86State.KeepsRegs parts x y ∧ y.segs = x.segs ∧ y.inhibitNext = false ∧ X86State.KeepsControl x y

/-- EIP is past the instruction (spec/10_state.md R24). -/
def X86State.Passes (i : Instr) (x y : X86State) : Prop := y.eip = x.eip + BitVec.ofNat 32 (x.lengthOf i)

/-- The instruction completes, and P1 is then as `P` says; nothing else of the machine changed. -/
def X86Completes (i : Instr) (s : State) (P : X86State → Prop) : Prop :=
  ∃ y, exec i s = .next { s with x86 := y } ∧ P y

/-- The r/m operand `dst` got `v`; all but it, the flags and EIP is as before. -/
def X86State.Wrote (w : Nat) (dst : X86RM) (v : BitVec w) (x y : X86State) : Prop :=
  match dst with
  | .reg n => y.readReg w n = v ∧ X86State.Keeps [(w, n)] x y ∧ Memory.Same x.mem y.mem
  | .mem m => Memory.Stored .little top32 x.mem y.mem (x.memAt m (w / 8) .write) v ∧ X86State.Keeps [] x y

/-- The instruction completes: `dst` got `v`, the flags are as `F` says, EIP is past it, all else is as before. -/
def X86Writes (i : Instr) (s : State) (w : Nat) (dst : X86RM) (v : BitVec w) (F : X86Flags → Prop) : Prop :=
  X86Completes i s fun y => X86State.Wrote w dst v s.x86 y ∧ F y.flags ∧ X86State.Passes i s.x86 y

/-- The instruction completes: `v` is on the stack and the stack pointer below it; all else is as before. -/
def X86Pushes (i : Instr) (s : State) (w : Nat) (v : BitVec w) : Prop :=
  X86Completes i s fun y =>
    y.topOfStack = s.x86.pushTo (w / 8) ∧
    Memory.Stored .little top32 s.x86.mem y.mem (s.x86.stackAt (s.x86.pushTo (w / 8)) (w / 8) .stackWrite) v ∧
    X86State.Keeps [s.x86.stackPart] s.x86 y ∧ y.flags = s.x86.flags ∧ X86State.Passes i s.x86 y

/-- The instruction ends with exception `e`, and the state is the one before it (spec/60_exceptions.md R681). -/
def Raises (i : Instr) (s : State) (e : Exception) : Prop :=
  exec i s = .fault (.raised e { s with x86 := { s.x86 with pfx := .none } })

/-! ### P1: flags as the spec's integer conditions (spec/40_ia32.md R252) -/

/-- PF: the low byte has an even number of 1 bits. -/
def EvenParity (r : BitVec w) : Prop := ((List.range 8).countP fun i => r.getLsbD i) % 2 = 0

/-- SF, ZF and PF of a result. -/
def ResultFlags (r : BitVec w) (f : X86Flags) : Prop :=
  f.sf = r.msb ∧ (f.zf = true ↔ r = 0) ∧ (f.pf = true ↔ EvenParity r)

/-- The flags of an addition of `a`, `b` and carry-in `c` (spec/40_ia32.md R252). -/
def SumFlags (a b : BitVec w) (c : Bool) (f : X86Flags) : Prop :=
  (f.cf = true ↔ 2 ^ w ≤ a.toNat + b.toNat + c.toNat) ∧
  (f.ovf = true ↔ ¬ (-(2 : Int) ^ (w - 1) ≤ a.toInt + b.toInt + c.toNat ∧ a.toInt + b.toInt + c.toNat < 2 ^ (w - 1))) ∧
  (f.af = true ↔ 16 ≤ a.toNat % 16 + b.toNat % 16 + c.toNat) ∧
  ResultFlags (BitVec.ofNat w (a.toNat + b.toNat + c.toNat)) f

/-- The flags of a logical result; AF is any value (spec/40_ia32.md R265). -/
def LogicFlags (r : BitVec w) (f : X86Flags) : Prop := f.cf = false ∧ f.ovf = false ∧ ResultFlags r f

/-! ### P2 -/

/-- The instruction completes, and P2 is then as `P` says; nothing else of the machine changed. -/
def ArmCompletes (i : Instr) (s : State) (P : ArmState → Prop) : Prop :=
  ∃ b, exec i s = .next { s with arm := b } ∧ P b

/-- All but the listed registers, R15 and CPSR keeps its value. -/
def ArmState.Keeps (ds : List (BitVec 4)) (a b : ArmState) : Prop :=
  (∀ n, n ≠ 15#4 → n ∉ ds → b.reg n = a.reg n) ∧ b.spsr = a.spsr ∧ b.params = a.params ∧ Memory.Same a.mem b.mem

/-- N and Z are those of `r`; C holds when `c` and V when `v`; CPSR's other bits keep their value. -/
def ArmState.Flagged (a b : ArmState) (r : Word) (c v : Prop) : Prop :=
  b.n = r.msb ∧ (b.z = true ↔ r = 0) ∧ (b.c = true ↔ c) ∧ (b.v = true ↔ v) ∧
  ∀ i, i < 28 → b.cpsr.getLsbD i = a.cpsr.getLsbD i

/-- The test of a condition code on the flags (spec/41_arm.md R331). -/
def ArmState.Holds (a : ArmState) (code : BitVec 4) : Prop :=
  match code.toNat with
  | 0 => a.z = true
  | 1 => a.z = false
  | 2 => a.c = true
  | 3 => a.c = false
  | 4 => a.n = true
  | 5 => a.n = false
  | 6 => a.v = true
  | 7 => a.v = false
  | 8 => a.c = true ∧ a.z = false
  | 9 => a.c = false ∨ a.z = true
  | 10 => a.n = a.v
  | 11 => a.n ≠ a.v
  | 12 => a.z = false ∧ a.n = a.v
  | 13 => a.z = true ∨ a.n ≠ a.v
  | 14 => True
  | _ => False

/-- The condition of a P2 instruction; every P2 instruction has one. -/
def armCondOf : Instr → Option ArmCond
  | .armSubImm c _ _ _ _ _ | .armSubLsl c _ _ _ _ _ | .armSubLsr c _ _ _ _ _ | .armAddImm c _ _ _ _ _
  | .armAddLsl c _ _ _ _ _ | .armAddLsr c _ _ _ _ _ | .armAdcImm c _ _ _ _ _ | .armAdcLsl c _ _ _ _ _
  | .armAdcLsr c _ _ _ _ _ | .armOrrImm c _ _ _ _ _ | .armOrrLsl c _ _ _ _ _ | .armOrrLsr c _ _ _ _ _
  | .armMovImm c _ _ _ _ | .armMovLsl c _ _ _ _ | .armMovLsr c _ _ _ _ | .armLdrImm c _ _ _ _ _
  | .armLdrReg c _ _ _ _ _ _ | .armB c _ | .armBl c _ | .armBx c _ => some c
  | _ => none

/-- A signed value is outside the range of 32 bits. -/
def Overflows32 (z : Int) : Prop := ¬ (-(2 : Int) ^ 31 ≤ z ∧ z < (2 : Int) ^ 31)

/-! ### P3 -/

/-- The instruction completes, and P3 is then as `P` says; nothing else of the machine changed. -/
def PpcCompletes (i : Instr) (s : State) (P : PpcState → Prop) : Prop :=
  ∃ q, exec i s = .next { s with ppc := q } ∧ P q

/-- All but the listed registers, CR, XER, LR, CTR and CIA keeps its value. -/
def PpcState.Keeps (ds : List (BitVec 5)) (p q : PpcState) : Prop :=
  (∀ n, n ∉ ds → q.reg n = p.reg n) ∧ q.params = p.params ∧ Memory.Same p.mem q.mem

/-- CR0 is LT, GT, EQ of `r` as a signed value and XER[SO]; CR1 to CR7 keep their value (spec/42_powerpc.md R391). -/
def PpcState.Recorded (p q : PpcState) (r : Word) : Prop :=
  (q.crBit 0 = true ↔ r.toInt < 0) ∧ (q.crBit 1 = true ↔ 0 < r.toInt) ∧ (q.crBit 2 = true ↔ r = 0) ∧
  q.crBit 3 = q.so ∧ ∀ i, i < 28 → q.cr.getLsbD i = p.cr.getLsbD i

/-! ### P4 -/

/-- The instruction completes, and P4 is then as `P` says; nothing else of the machine changed. -/
def SparcCompletes (i : Instr) (s : State) (P : SparcState → Prop) : Prop :=
  ∃ q, exec i s = .next { s with sparc := q } ∧ P q

/-- All but the listed registers, PSR, PC, nPC and the two hidden booleans keeps its value. -/
def SparcState.Keeps (ds : List (BitVec 5)) (p q : SparcState) : Prop :=
  (∀ n, n ∉ ds → q.reg n = p.reg n) ∧ q.y = p.y ∧ q.wim = p.wim ∧ q.tbr = p.tbr ∧ q.params = p.params ∧
  Memory.Same p.mem q.mem

/-- PC and nPC of an instruction that is no control transfer (spec/10_state.md R46). -/
def SparcState.Advances (p q : SparcState) : Prop :=
  q.pc = p.npc ∧ q.npc = p.npc + 4 ∧ q.annulNext = p.annulNext ∧ q.inDelaySlot = false

/-- The integer condition codes; PSR's other bits keep their value (spec/10_state.md R47). -/
def SparcState.Coded (p q : SparcState) (r : Word) (v c : Prop) : Prop :=
  q.n = r.msb ∧ (q.z = true ↔ r = 0) ∧ (q.v = true ↔ v) ∧ (q.c = true ↔ c) ∧
  ∀ i, i < 20 ∨ 24 ≤ i → q.psr.getLsbD i = p.psr.getLsbD i

/-- The test of a Bicc condition code on the condition codes (spec/43_sparc.md R462). -/
def SparcState.Holds (p : SparcState) (code : BitVec 4) : Prop :=
  match code.toNat with
  | 0 => False
  | 1 => p.z = true
  | 2 => p.z = true ∨ p.n ≠ p.v
  | 3 => p.n ≠ p.v
  | 4 => p.c = true ∨ p.z = true
  | 5 => p.c = true
  | 6 => p.n = true
  | 7 => p.v = true
  | 8 => True
  | 9 => p.z = false
  | 10 => ¬ (p.z = true ∨ p.n ≠ p.v)
  | 11 => p.n = p.v
  | 12 => ¬ (p.c = true ∨ p.z = true)
  | 13 => p.c = false
  | 14 => p.n = false
  | _ => p.v = false

/-! ### P5 -/

/-- The instruction completes, and P5 is then as `P` says; nothing else of the machine changed. -/
def MipsCompletes (i : Instr) (s : State) (P : MipsState → Prop) : Prop :=
  ∃ q, exec i s = .next { s with mips := q } ∧ P q

/-- All but the listed registers, PC, the pending target and ISAMode keeps its value. -/
def MipsState.Keeps (ds : List (BitVec 5)) (p q : MipsState) : Prop :=
  (∀ n, n ∉ ds → q.reg n = p.reg n) ∧ q.params = p.params ∧ Memory.Same p.mem q.mem

/-- PC, pending target and ISAMode after an instruction that is no branch (spec/44_mips32.md R530): in a delay slot on
to the pending target, else to PC + 4. -/
def MipsState.Advances (p q : MipsState) : Prop :=
  q.delayed = none ∧
  match p.delayed with
  | none => q.pc = p.pc + 4 ∧ q.isaMode = p.isaMode
  | some d => q.pc = d.target ∧ q.isaMode = d.isa.getD p.isaMode

/-! ### P6 -/

/-- The instruction completes, and P6 is then as `P` says; nothing else of the machine changed. -/
def RvCompletes (i : Instr) (s : State) (P : RvState → Prop) : Prop :=
  ∃ q, exec i s = .next { s with rv := q } ∧ P q

/-- The mode and the CSRs, cycle apart, keep their value. -/
def RvState.KeepsCsrs (p q : RvState) : Prop :=
  q.priv = p.priv ∧ q.mie = p.mie ∧ q.mpie = p.mpie ∧ q.mpp = p.mpp ∧ q.mepc = p.mepc ∧ q.sie = p.sie ∧
  q.spie = p.spie ∧ q.spp = p.spp ∧ q.sepc = p.sepc

/-- All but the listed registers, pc, memory, cycle and the reservation keeps its value. -/
def RvState.Keeps (ds : List (BitVec 5)) (p q : RvState) : Prop :=
  (∀ n, n ∉ ds → q.reg p.xlen n = p.reg p.xlen n) ∧ RvState.KeepsCsrs p q ∧ q.params = p.params

/-- x[rd] holds `v` (x[0] stays zero), and nothing else changed but pc. -/
def RvState.Gets (rd : BitVec 5) (p : RvState) (v : BitVec p.xlen) (q : RvState) : Prop :=
  q.reg p.xlen rd = (if rd = 0#5 then 0 else v) ∧ RvState.Keeps [rd] p q ∧ Memory.Same p.mem q.mem ∧
  q.cycle = p.cycle ∧ q.reservation = p.reservation

/-- No access fault on the `n` bytes at `a` (spec/20_memory.md R120): no rule of the kind, without a size, meets one of
the bytes, and none for this size meets the first. -/
abbrev RvState.Allows (p : RvState) (kind : RvAccess) (a n : Nat) : Prop :=
  ∀ f ∈ p.params.accessFaults, f.kind = kind → ∀ j, j < n → (f.size = none ∨ f.size = some n ∧ j = 0) →
    ¬ (f.region.base ≤ (a + j) % p.top ∧ (a + j) % p.top < f.region.base + f.region.size)

/-- The `n` bytes at `a` and the bytes of the reservation share none (spec/92_eei_decisions.md D22). -/
def RvState.Disjoint (p : RvState) (a n : Nat) : Prop :=
  ∀ r, p.reservation = some r → ∀ j k, j < n → k < r.size → (a + j) % p.top ≠ (r.addr + k) % p.top

/-- A store to the `n` bytes at `a` meets no case that the spec decides to refuse, or the parameter completes it. -/
abbrev RvState.Settled (p : RvState) (a n : Nat) : Prop := p.params.unsettled = .refuse → p.Disjoint a n

/-! ### Invariants -/

/-- P1: memory and the stored addresses are in canonical form; no prefix is in force between steps; CS and SS are never
null, and a null DS, ES, FS or GS holds one of the selectors 0000 to 0003 (spec/10_state.md R23). -/
abbrev X86State.Inv (x : X86State) : Prop :=
  Memory.wf top32 x.mem ∧ StoredSet.wf x.stored ∧ x.pfx = .none ∧ x.segs.cs.null = false ∧ x.segs.ss.null = false ∧
  ∀ sg ∈ [X86Sreg.ds, .es, .fs, .gs], (x.segs.get sg).null = true → isNullSelector (x.segs.get sg).sel = true

/-- P2: memory is in canonical form; in ARM state the PC is word aligned (spec/20_memory.md R113). -/
abbrev ArmState.Inv (a : ArmState) : Prop :=
  Memory.wf top32 a.mem ∧ (a.t = false → a.pc.extractLsb' 0 2 = 0#2)

/-- P3: memory is in canonical form; CIA is word aligned (spec/10_state.md R41). -/
abbrev PpcState.Inv (p : PpcState) : Prop := Memory.wf top32 p.mem ∧ p.cia.extractLsb' 0 2 = 0#2

/-- P4: memory is in canonical form; PC and nPC are word aligned (spec/20_memory.md R116). -/
abbrev SparcState.Inv (p : SparcState) : Prop :=
  Memory.wf top32 p.mem ∧ p.pc.extractLsb' 0 2 = 0#2 ∧ p.npc.extractLsb' 0 2 = 0#2

/-- P5: memory is in canonical form; without MIPS16e and microMIPS, ISAMode is 0 and no ISAMode is pending
(spec/10_state.md R55). -/
abbrev MipsState.Inv (p : MipsState) : Prop :=
  Memory.wf top32 p.mem ∧
  (p.params.config3ISA = 0 ∧ p.params.config1CA = 0 →
    p.isaMode = 0 ∧ p.delayed.all (fun d => d.isa.isNone) = true)

/-- P6: memory and the stored addresses are in canonical form; pc has XLEN bits and is a legal target; with XLEN = 32
every register has 32 bits; a reservation is 4 or 8 aligned bytes (spec/10_state.md R56, R58, R61). -/
abbrev RvState.Inv (p : RvState) : Prop :=
  Memory.wf p.top p.mem ∧ StoredSet.wf p.stored ∧ p.targetOk p.pc = true ∧ p.cut p.pc = p.pc ∧
  (p.params.rv64 = false → ∀ i : BitVec 5, (p.x[i.toNat]'i.isLt).toNat < 2 ^ 32) ∧
  p.reservation.all (fun r => (r.size == 4 || r.size == 8) && r.addr % r.size == 0) = true

/-- The invariant of the whole machine. -/
abbrev State.Inv (s : State) : Prop :=
  s.x86.Inv ∧ s.arm.Inv ∧ s.ppc.Inv ∧ s.sparc.Inv ∧ s.mips.Inv ∧ s.rv.Inv

end Sys2Proof.Machine
end

