-- ==== Sys2Proof/Certificates/Slice0/Obligations.lean ====
section
/-! DEFINITION. The statements about the model, each citing the rules of spec/ that it formalises. -/

open Sys2Proof Sys2Proof.Machine

/-! ### The step, the encodings, the invariant -/

/-- A step runs the decoded instruction, in every part: where the bytes at the program counter can be fetched and
decode to `i`, the step is `exec i`; where they decode to nothing, it is refused with the decoder's reason. For P1 the
bytes are any that can be fetched from CS:EIP on, as far as the decoder needs them; a byte that it needs and that
X86_SEG refuses ends the step with the fault. With T = 1 or ISAMode = 1 the step is refused; an unaligned PC is
refused in P2 and an Address Error, with nothing but the state, in P5 (48.md). The two refusals of P2 are the spec's
decisions D20 and D14 (notes/assumptions/42.md, 22.md). Four things are the model's choice: that X86_SEG checks code
bytes by a kind of access of their own (14.md), that a fetch of P5 goes to the untranslated PC and takes no fault of
MIPS_XLATE (52.md), that a fetch of P6 takes no access fault (50.md), and that P6 fetches at a pc that no transfer of
control may reach (46.md). -/
def Obligations.StepRunsDecoded : Prop :=
  ∀ (s : State) (i : Instr) (e : DecodeErr),
    let ends (d : Decoded Instr) : Prop :=
      (d = .ok i → step s = exec i s) ∧ (d = .error e → step s = .refused (.undecodable e))
    (∀ n, s.part = .p1 → s.x86.shutdown = false → n ≤ 15 →
      (∀ j, j < n → s.x86.Fetchable (s.x86.eip + BitVec.ofNat 32 j)) →
      let d : Decoded Instr := decode .p1 s.x86.segs.cs.desc.big (.bytes ((List.range n).map fun j =>
        Memory.get s.x86.mem (s.x86.codeAt (s.x86.eip + BitVec.ofNat 32 j))))
      (d ≠ .error .short → ends d) ∧
      (d = .error .short → n < 15 → ∀ x, s.x86.xseg .cs (s.x86.eip + BitVec.ofNat 32 n) 1 .fetch = .error x →
        step s = .fault (.raised (.x86 x) { s with x86 := { s.x86 with pfx := .none } }))) ∧
    (s.part = .p2 →
      (s.arm.t = true → step s = .refused .thumb) ∧
      (s.arm.t = false → s.arm.pc.extractLsb' 0 2 ≠ 0#2 → step s = .refused .armPcLowBits) ∧
      (s.arm.t = false → s.arm.pc.extractLsb' 0 2 = 0#2 →
        ends (decode .p2 false (.word (Memory.read s.arm.params.order top32 32 s.arm.mem s.arm.pc.toNat))))) ∧
    (s.part = .p3 → ends (decode .p3 false (.word (Memory.read .big top32 32 s.ppc.mem s.ppc.cia.toNat)))) ∧
    (s.part = .p4 → s.sparc.annulNext = false →
      ends (decode .p4 false (.word (Memory.read .big top32 32 s.sparc.mem s.sparc.pc.toNat)))) ∧
    (s.part = .p5 →
      (s.mips.isaMode = 1#1 → step s = .refused .mipsIsaMode) ∧
      (s.mips.isaMode = 0#1 → s.mips.pc.extractLsb' 0 2 ≠ 0#2 →
        step s = .fault (.raised (.mipsAddressError none) { s with x86 := { s.x86 with pfx := .none } })) ∧
      (s.mips.isaMode = 0#1 → s.mips.pc.extractLsb' 0 2 = 0#2 →
        ends (decode .p5 false (.word (Memory.read s.mips.params.order top32 32 s.mips.mem s.mips.pc.toNat))))) ∧
    (s.part = .p6 →
      let h : Half := Memory.read .little s.rv.top 16 s.rv.mem s.rv.pc.toNat
      ((∀ j, j < 2 → (s.rv.pc.toNat + j) % s.rv.top ∉ s.rv.stored) → h.extractLsb' 0 2 ≠ 3#2 →
        ends (decode .p6 false (.half h))) ∧
      ((∀ j, j < 4 → (s.rv.pc.toNat + j) % s.rv.top ∉ s.rv.stored) → h.extractLsb' 0 2 = 3#2 →
        ends (decode .p6 false (.word (Memory.read .little s.rv.top 32 s.rv.mem s.rv.pc.toNat)))))

/-- Words written out from the encodings of spec/30_encoding.md decode to the instruction they stand for. -/
def Obligations.DecodeKnownWords : Prop :=
  decode .p1 true (.bytes [0x68, 0x78, 0x56, 0x34, 0x12]) = .ok (.x86PushImm 0x12345678#32) ∧
  decode .p1 true (.bytes [0x66, 0x83, 0x55, 0xFC, 0x80]) =
    .ok (.x86OpSize (.x86AdcRmImm8 (.mem (.base32 5 (.d8 0xFC#8))) 0x80#8)) ∧
  decode .p2 false (.word 0xE0910102#32) = .ok (.armAddLsl .al true 1 0 2 2) ∧
  decode .p3 false (.word 0x7C6803A6#32) = .ok (.ppcMtspr 8 3) ∧
  decode .p4 false (.word 0x86006FFF#32) = .ok (.sparcAdd 1 (.imm 0xFFF#13) 3) ∧
  decode .p5 false (.word 0x7C821F00#32) = .ok (.mipsExt 2 4 3 28) ∧
  decode .p6 false (.word 0x00C58533#32) = .ok (.rvAdd 10 11 12) ∧
  decode .p6 false (.half 0x9086#16) = .ok (.rvCAdd 1 1)

/-- Every well-formed P1 instruction, prefixes included, decodes from its encoding, whatever bytes follow. -/
def Obligations.DecodeEncodeX86 : Prop :=
  ∀ (csD : Bool) (i : Instr) (rest : List Byte), i.wfX86 csD .none = true →
    decode .p1 csD (.bytes (encodeX86 csD .none i ++ rest)) = .ok i

/-- P1 bytes that decode begin with the encoding of what they decode to: the length that EIP advances by is that of the
bytes in memory. -/
def Obligations.EncodeDecodeX86 : Prop :=
  ∀ (csD : Bool) (l : List Byte) (i : Instr), decode .p1 csD (.bytes l) = .ok i →
    i.wfX86 csD .none = true ∧ ∃ rest, l = encodeX86 csD .none i ++ rest

/-- Every well-formed instruction of P2 to P6 decodes from its encoding, an assembler name to its core instruction. -/
def Obligations.DecodeEncodeWords : Prop :=
  ∀ (i : Instr), i.part ≠ .p1 → i.wfWord = true → decode i.part false (encode false i) = .ok i.core

/-- The invariant holds of the reset state. The reset values it rests on are the model's choice
(notes/assumptions/2.md, 4.md to 10.md). -/
def Obligations.ResetKeepsInvariant : Prop := State.Inv State.reset

/-- Every step keeps the invariant: canonical memories, aligned program counters, legal null selectors, no prefix
between steps, XLEN-bit registers, aligned reservations. -/
def Obligations.StepKeepsInvariant : Prop := ∀ (s t : State), s.Inv → step s = .next t → t.Inv

/-- A step changes the running part only, and no parameter: P1's system bits, and the configuration of every part. -/
def Obligations.StepChangesOnePart : Prop :=
  ∀ (s t : State), step s = .next t →
    t.part = s.part ∧ (s.part ≠ .p1 → t.x86 = s.x86) ∧ (s.part ≠ .p2 → t.arm = s.arm) ∧
    (s.part ≠ .p3 → t.ppc = s.ppc) ∧ (s.part ≠ .p4 → t.sparc = s.sparc) ∧ (s.part ≠ .p5 → t.mips = s.mips) ∧
    (s.part ≠ .p6 → t.rv = s.rv) ∧
    t.x86.pe = s.x86.pe ∧ t.x86.vm = s.x86.vm ∧ t.x86.iopl = s.x86.iopl ∧ t.x86.cpl = s.x86.cpl ∧
    t.x86.alignCheck = s.x86.alignCheck ∧ t.x86.intEnable = s.x86.intEnable ∧
    t.x86.params = s.x86.params ∧ t.arm.params = s.arm.params ∧ t.ppc.params = s.ppc.params ∧
    t.sparc.params = s.sparc.params ∧ t.mips.params = s.mips.params ∧ t.rv.params = s.rv.params

/-- An instruction that raises an exception writes nothing: the state the fault carries is the one before it, except
for P2's Data Abort, which only the two LDR forms raise, at the address they access: the base register keeps its value
or, with write-back, holds the updated base, and all else is as before. No instruction of itself leaves the machine
stuck. For P1, P3 and P6 the spec decides so (R681, D31; notes/assumptions/42.md). -/
def Obligations.ExceptionWritesNothing : Prop :=
  ∀ (i : Instr) (s : State) (f : Fault), exec i s = .fault f →
    ∃ e u, f = .raised e u ∧
      ((∀ a, e ≠ .armDataAbort a) → u = { s with x86 := { s.x86 with pfx := .none } }) ∧
      (∀ a, e = .armDataAbort a → ∃ (c : ArmCond) (mode : ArmIndex) (up : Bool) (rn rd : BitVec 4) (off : Word)
        (b : ArmState),
        let base : Word := s.arm.readReg rn
        let indexed : Word := if up then base + off else base - off
        ((∃ o12 : BitVec 12, i = .armLdrImm c mode up rn rd o12 ∧ off = o12.setWidth 32) ∨
          (∃ sh rm, i = .armLdrReg c mode up rn rd sh rm ∧ off = s.arm.readReg rm <<< sh.toNat)) ∧
        a = (if mode = .post then base else indexed) ∧
        u = { s with arm := b, x86 := { s.x86 with pfx := .none } } ∧
        (b.reg rn = s.arm.reg rn ∨ mode ≠ .offset ∧ b.reg rn = indexed) ∧ (∀ n, n ≠ rn → b.reg n = s.arm.reg n) ∧
        b.cpsr = s.arm.cpsr ∧ b.spsr = s.arm.spsr ∧ b.mem = s.arm.mem ∧ b.params = s.arm.params)

/-- A byte of P1 or P6 memory that an instruction changed is one that no later fetch accepts: it is remembered as stored
and never forgotten, and a step whose fetch needs a stored byte is refused. For P1 that is a byte right after code bytes
that begin an instruction and do not end it. The spec's decision D9 asks for it (notes/assumptions/42.md, 20.md). -/
def Obligations.ChangedBytesAreStored : Prop :=
  (∀ (i : Instr) (s t : State), exec i s = .next t →
    (Memory.wf top32 s.x86.mem → ∀ a, Memory.get t.x86.mem a ≠ Memory.get s.x86.mem a → a ∈ t.x86.stored) ∧
    (Memory.wf s.rv.top s.rv.mem → ∀ a, Memory.get t.rv.mem a ≠ Memory.get s.rv.mem a → a ∈ t.rv.stored) ∧
    (∀ a ∈ s.x86.stored, a ∈ t.x86.stored) ∧ (∀ a ∈ s.rv.stored, a ∈ t.rv.stored)) ∧
  ∀ s : State,
    (∀ n, s.part = .p1 → s.x86.shutdown = false → n < 15 →
      (∀ j, j < n → s.x86.Fetchable (s.x86.eip + BitVec.ofNat 32 j)) →
      decode .p1 s.x86.segs.cs.desc.big (.bytes ((List.range n).map fun j =>
        Memory.get s.x86.mem (s.x86.codeAt (s.x86.eip + BitVec.ofNat 32 j)))) = .error .short →
      s.x86.Allows .cs (s.x86.eip + BitVec.ofNat 32 n) 1 .fetch →
      s.x86.codeAt (s.x86.eip + BitVec.ofNat 32 n) ∈ s.x86.stored → step s = .refused .fetchOfStored) ∧
    (∀ j, s.part = .p6 → (j < 2 ∨ j < 4 ∧
        (Memory.read .little s.rv.top 16 s.rv.mem s.rv.pc.toNat).extractLsb' 0 2 = 3#2) →
      (s.rv.pc.toNat + j) % s.rv.top ∈ s.rv.stored → step s = .refused .fetchOfStored)

/-- MemRead and MemWrite, byte by byte, in both byte orders, addresses modulo the address-space size. -/
def Obligations.MemoryReadWrite : Prop :=
  ∀ (o : ByteOrder) (top n : Nat) (m : Memory) (a : Nat), Memory.wf top m → 0 < top → n ≤ top →
    (∀ j, j < n → Memory.get m ((a + j) % top) =
      (Memory.read o top (8 * n) m a).extractLsb' (8 * (match o with | .little => j | .big => n - 1 - j)) 8) ∧
    (∀ v : BitVec (8 * n),
      (∀ j, j < n → Memory.get (Memory.write o top (8 * n) m a v) ((a + j) % top) =
        v.extractLsb' (8 * (match o with | .little => j | .big => n - 1 - j)) 8) ∧
      (∀ b, (∀ j, j < n → b ≠ (a + j) % top) → Memory.get (Memory.write o top (8 * n) m a v) b = Memory.get m b) ∧
      Memory.wf top (Memory.write o top (8 * n) m a v))

/-! ### P1 -/

/-- The 16-bit and 8-bit views of the general registers: where they lie, and that a write to one changes no other bit.
The places of AH, CH, DH, BH are supplied by the spec (R21, notes/assumptions/42.md). -/
def Obligations.X86RegisterViews : Prop :=
  ∀ (x : X86State) (n : BitVec 3),
    x.readReg 32 n = x.gpr32 n ∧ x.readReg 16 n = (x.gpr32 n).extractLsb' 0 16 ∧
    (n.toNat < 4 → x.readReg 8 n = (x.gpr32 n).extractLsb' 0 8) ∧
    (4 ≤ n.toNat → x.readReg 8 n = (x.gpr32 (n - 4)).extractLsb' 8 8) ∧
    (∀ v : BitVec 32, (x.writeReg n v).readReg 32 n = v ∧ X86State.KeepsRegs [(32, n)] x (x.writeReg n v)) ∧
    (∀ v : BitVec 16, (x.writeReg n v).readReg 16 n = v ∧ X86State.KeepsRegs [(16, n)] x (x.writeReg n v)) ∧
    (∀ v : BitVec 8, (x.writeReg n v).readReg 8 n = v ∧ X86State.KeepsRegs [(8, n)] x (x.writeReg n v))

/-- The stack pointer is ESP or SP by the B flag of SS, and moving it leaves every other register bit. -/
def Obligations.X86StackPointer : Prop :=
  ∀ (x : X86State) (d : Word),
    (x.segs.ss.desc.big = true → x.topOfStack = x.gpr32 4 ∧ x.stackUp d = x.gpr32 4 + d) ∧
    (x.segs.ss.desc.big = false → x.topOfStack = (x.readReg 16 4).setWidth 32 ∧
      (x.stackUp d).toNat = ((x.gpr32 4).toNat + d.toNat) % 2 ^ 16) ∧
    (x.setSp (x.stackUp d)).topOfStack = x.stackUp d ∧
    X86State.KeepsRegs [x.stackPart] x (x.setSp (x.stackUp d))

/-- X86_SEG. In protected mode the faults are those the pages list, each under the model's reading of its condition and
when none checked before it holds; outside protected mode the only fault is one that the parameter supplies; with
neither, the access is made where the parameter says. The instance `based` is base plus offset with the paging it lists,
and the flat default answers the offset itself, a null DS, ES, FS or GS apart. The order of the checks is the spec's
decision D3 and the model's reading of it (notes/assumptions/42.md, 41.md). Four things are the model's choice (14.md),
no rule of the spec: the split of the parameter into three functions; that the limit is tested against every byte of the
access, modulo 2^32, where R106 says of the effective address only that it is outside the limit; that all of this, the
limit and paging included, holds of the access kind `fetch` too, where R106 speaks of data accesses; and that outside
protected mode the parameter's faults are the only ones. -/
def Obligations.X86AccessChecks : Prop :=
  ∀ (x : X86State) (g : X86Sreg) (off : Word) (n : Nat) (kind : X86Access) (pages : List X86PageRule),
    let a : Word := x.linearOf g off n kind
    let lies : Word := x.locate g off n kind
    let free : Prop := ¬ x.NullRef g ∧ ¬ x.ReadOnly g kind
    (x.Allows g off n kind → x.xseg g off n kind = .ok lies ∧ (x.Protected → x.pageOf a n kind = .lies lies) ∧
      (¬ x.Protected → lies = a)) ∧
    (¬ x.Protected → ∀ e, x.unlistedFault g off n kind = some e → x.xseg g off n kind = .error e) ∧
    (x.Protected →
      (x.NullRef g → x.xseg g off n kind = .error (.gp 0)) ∧
      (¬ x.NullRef g → x.ReadOnly g kind → x.xseg g off n kind = .error (.gp 0)) ∧
      (free → x.Outside g off n → x.xseg g off n kind = .error (if g = .ss then .ss 0 else .gp 0)) ∧
      (free → ¬ x.Outside g off n → x.Unaligned a n → x.xseg g off n kind = .error (.ac 0)) ∧
      (free → ¬ x.Outside g off n → ¬ x.Unaligned a n → ∀ code, x.pageOf a n kind = .fault code →
        x.xseg g off n kind = .error (.pf code))) ∧
    (x.params.seg = .based pages →
      a = (x.segs.get g).desc.base + off ∧ x.unlistedFault g off n kind = none ∧
      (0 < n → ∀ b code, x.pageOf b n kind = .fault code → ∃ p ∈ pages, p.answer = .fault code ∧ kind ∈ p.kinds ∧
        ∃ j, j < n ∧ InRegion [p.region] ((b.toNat + j) % top32)) ∧
      (∀ b c, x.pageOf b n kind = .lies c → c = b ∨ ∃ p ∈ pages, ∃ q, p.answer = .lies q ∧ kind ∈ p.kinds ∧
        InRegion [p.region] b.toNat ∧ c.toNat = (q.toNat + (b.toNat - p.region.base)) % top32)) ∧
    (x.params.seg = .based [] → (x.segs.get g).desc.base = 0 → (x.segs.get g).desc.limit = 0xFFFFFFFF#32 →
      (x.segs.get g).desc.writable = true → ¬ x.Unaligned off n →
      x.xseg g off n kind = if x.Protected ∧ x.NullRef g then .error (.gp 0) else .ok off)

/-- A refused access ends the instruction with its exception, and the state is the one before: the stack access of
every PUSH, of every POP and of both near RETs, the operand of PUSH, the destination of POP, and the operand of every
form that reads one, writes one, or reads and then writes it. Where the bytes of a stack access straddle the end of a
16-bit stack, a PUSH that does not shut down, a POP and a near RET are refused instead (R105). The bytes that the
stack-limit test of near RET covers are the spec's decision D12, and that SHRD faults with a count of 0 too is its D17
(R280; notes/assumptions/42.md). That the stack-limit test holds outside protected mode is the model's choice (14.md),
and so is that it comes before the read (41.md). -/
def Obligations.X86AccessFaults : Prop :=
  ∀ (s : State) (w : Nat) (e : X86Exc) (r sr : BitVec 3) (rm : X86RM) (m : X86Mem) (i8 : BitVec 8) (i32 : BitVec 32)
    (i16 : BitVec 16) (i : Instr), w = s.x86.opSize →
    let x : X86State := s.x86
    let down : Word := x.pushTo (w / 8)
    let up : X86State := x.setSp (x.popTo (w / 8))
    let at8 (k : X86Access) : Except X86Exc Word := x.xseg (x.segOf m) (x.ea m) 1 k
    let at16 (k : X86Access) : Except X86Exc Word := x.xseg (x.segOf m) (x.ea m) 2 k
    let atW (k : X86Access) : Except X86Exc Word := x.xseg (x.segOf m) (x.ea m) (w / 8) k
    let moffs (n : Nat) (k : X86Access) : Except X86Exc Word := x.xseg x.moffsSeg (x.moffs i32) n k
    let both8 : List Instr :=
      [.x86AddRm8Imm8 (.mem m) i8, .x86AddRm8R8 (.mem m) r, .x86AdcRm8Imm8 (.mem m) i8, .x86AdcRm8R8 (.mem m) r,
        .x86XorRm8Imm8 (.mem m) i8, .x86XorRm8R8 (.mem m) r, .x86XchgRm8R8 (.mem m) r]
    let bothW : List Instr :=
      [.x86AddRmImm (.mem m) i32, .x86AddRmImm8 (.mem m) i8, .x86AddRmR (.mem m) r, .x86AdcRmImm (.mem m) i32,
        .x86AdcRmImm8 (.mem m) i8, .x86AdcRmR (.mem m) r, .x86XorRmImm (.mem m) i32, .x86XorRmImm8 (.mem m) i8,
        .x86XorRmR (.mem m) r, .x86XchgRmR (.mem m) r, .x86ShrdImm (.mem m) r i8, .x86ShrdCl (.mem m) r]
    (¬ x.Exhausted → x.InStack down (w / 8) → x.xseg .ss down (w / 8) .stackWrite = .error e →
      (i ∈ [Instr.x86PushReg r, .x86PushImm8 i8, .x86PushImm i32, .x86PushCs, .x86PushSs, .x86PushDs, .x86PushEs,
        .x86PushFs, .x86PushGs] ∨ i = .x86PushRm rm ∧ x.Reaches w rm .read) → Raises i s (.x86 e)) ∧
    (¬ x.Exhausted → atW .read = .error e → Raises (.x86PushRm (.mem m)) s (.x86 e)) ∧
    (x.InStack x.topOfStack (w / 8) → x.xseg .ss x.topOfStack (w / 8) .stackRead = .error e →
      (i ∈ [Instr.x86PopReg r, .x86PopMem m, .x86PopDs, .x86PopEs, .x86PopFs, .x86PopGs, .x86PopSs] ∨
        i ∈ [Instr.x86Ret, .x86RetImm i16] ∧ ¬ x.Outside .ss x.topOfStack (w / 8)) → Raises i s (.x86 e)) ∧
    (i ∈ [Instr.x86Ret, .x86RetImm i16] → x.InStack x.topOfStack (w / 8) → x.Outside .ss x.topOfStack (w / 8) →
      Raises i s (.x86 (.ss 0))) ∧
    (¬ x.Exhausted → ¬ x.InStack down (w / 8) →
      (i ∈ [Instr.x86PushReg r, .x86PushImm8 i8, .x86PushImm i32, .x86PushCs, .x86PushSs, .x86PushDs, .x86PushEs,
        .x86PushFs, .x86PushGs] ∨ i = .x86PushRm rm ∧ x.Reaches w rm .read) → exec i s = .refused .stackStraddle) ∧
    (¬ x.InStack x.topOfStack (w / 8) →
      i ∈ [Instr.x86PopReg r, .x86PopMem m, .x86PopDs, .x86PopEs, .x86PopFs, .x86PopGs, .x86PopSs, .x86Ret,
        .x86RetImm i16] → exec i s = .refused .stackStraddle) ∧
    (x.CanPop (w / 8) → x.popWraps m (w / 8) = false →
      up.xseg (up.segOf m) (up.ea m) (w / 8) .write = .error e → Raises (.x86PopMem m) s (.x86 e)) ∧
    (at8 .read = .error e → i ∈ [Instr.x86MovR8Rm8 r (.mem m), .x86AddR8Rm8 r (.mem m), .x86AdcR8Rm8 r (.mem m),
      .x86XorR8Rm8 r (.mem m)] ++ both8 → Raises i s (.x86 e)) ∧
    (atW .read = .error e → i ∈ [Instr.x86MovRRm r (.mem m), .x86AddRRm r (.mem m), .x86AdcRRm r (.mem m),
      .x86XorRRm r (.mem m)] ++ bothW → Raises i s (.x86 e)) ∧
    (at16 .read = .error e → sr ≠ 1#3 → sr.toNat < 6 → Raises (.x86MovSregRm sr (.mem m)) s (.x86 e)) ∧
    (at8 .write = .error e → (i ∈ [Instr.x86MovRm8R8 (.mem m) r, .x86MovRm8Imm8 (.mem m) i8] ∨
      i ∈ both8 ∧ x.Reaches 8 (.mem m) .read) → Raises i s (.x86 e)) ∧
    (atW .write = .error e → (i ∈ [Instr.x86MovRmR (.mem m) r, .x86MovRmImm (.mem m) i32] ∨
      i ∈ bothW ∧ x.Reaches w (.mem m) .read) → Raises i s (.x86 e)) ∧
    (at16 .write = .error e → sr.toNat < 6 → Raises (.x86MovRmSreg (.mem m) sr) s (.x86 e)) ∧
    (moffs 1 .read = .error e → Raises (.x86MovAlMoffs i32) s (.x86 e)) ∧
    (moffs (w / 8) .read = .error e → Raises (.x86MovAxMoffs i32) s (.x86 e)) ∧
    (moffs 1 .write = .error e → Raises (.x86MovMoffsAl i32) s (.x86 e)) ∧
    (moffs (w / 8) .write = .error e → Raises (.x86MovMoffsAx i32) s (.x86 e))

/-- PUSH of an r/m operand, a register and both immediates: the value at the new top of stack, the stack pointer below
it, every other register bit, the flags and every other byte unchanged. PUSH ESP pushes the old value. A byte
immediate is sign-extended by the spec's decision D10 (notes/assumptions/42.md). -/
def Obligations.PushForms : Prop :=
  ∀ (s : State) (w : Nat) (rm : X86RM) (r : BitVec 3) (i8 : BitVec 8) (i32 : BitVec 32),
    Memory.wf top32 s.x86.mem → w = s.x86.opSize → s.x86.CanPush (w / 8) →
    (s.x86.Reaches w rm .read → X86Pushes (.x86PushRm rm) s w (s.x86.operand w rm)) ∧
    X86Pushes (.x86PushReg r) s w (s.x86.readReg w r) ∧
    X86Pushes (.x86PushImm8 i8) s w (i8.signExtend w) ∧
    X86Pushes (.x86PushImm i32) s w (i32.setWidth w)

/-- PUSH of a segment register: the selector; with a 32-bit operand the upper half pushed is any value. The upper half
is the spec's decision D13 (notes/assumptions/42.md). -/
def Obligations.PushSelectors : Prop :=
  ∀ (s : State) (i : Instr) (g : X86Sreg),
    (i, g) ∈ [(Instr.x86PushCs, X86Sreg.cs), (.x86PushSs, .ss), (.x86PushDs, .ds), (.x86PushEs, .es),
      (.x86PushFs, .fs), (.x86PushGs, .gs)] →
    Memory.wf top32 s.x86.mem →
    (s.x86.op32 = false → s.x86.CanPush 2 → X86Pushes i s 16 (s.x86.segs.get g).sel) ∧
    (s.x86.op32 = true → s.x86.CanPush 4 → ∃ u : Half, X86Pushes i s 32 (u ++ (s.x86.segs.get g).sel))

/-- A PUSH in real-address mode with the stack pointer equal to 1 shuts the machine down: nothing is written, no
exception is raised, and the machine is stuck from then on. No PUSH shuts it down otherwise. -/
def Obligations.PushShutsDown : Prop :=
  ∀ (s : State) (i : Instr) (rm : X86RM) (r : BitVec 3) (i8 : BitVec 8) (i32 : BitVec 32),
    i ∈ [Instr.x86PushRm rm, .x86PushReg r, .x86PushImm8 i8, .x86PushImm i32, .x86PushCs, .x86PushSs, .x86PushDs,
      .x86PushEs, .x86PushFs, .x86PushGs] →
    (s.x86.Exhausted → X86Completes i s fun y => y.shutdown = true ∧ y.gpr = s.x86.gpr ∧ y.mem = s.x86.mem ∧
      y.flags = s.x86.flags ∧ y.segs = s.x86.segs) ∧
    (¬ s.x86.Exhausted → ∀ t : State, exec i s = .next t → t.x86.shutdown = s.x86.shutdown) ∧
    ∀ t : State, t.part = .p1 → t.x86.shutdown = true → step t = .fault (.stuck t)

/-- XOR, nine forms: the result and its SF, ZF and PF, CF and OF clear, AF any value. That PF looks at the low byte is
supplied by the spec (R252, notes/assumptions/42.md). -/
def Obligations.XorForms : Prop :=
  ∀ (s : State) (w : Nat) (rm : X86RM) (r : BitVec 3) (i8 : BitVec 8) (i32 : BitVec 32),
    Memory.wf top32 s.x86.mem → w = s.x86.opSize →
    let xors (i : Instr) (w : Nat) (dst : X86RM) (src : BitVec w) : Prop :=
      X86Writes i s w dst (s.x86.operand w dst ^^^ src) (LogicFlags (s.x86.operand w dst ^^^ src))
    xors (.x86XorAlImm8 i8) 8 (.reg 0) i8 ∧
    xors (.x86XorAxImm i32) w (.reg 0) (i32.setWidth w) ∧
    (s.x86.Updates 8 rm → xors (.x86XorRm8Imm8 rm i8) 8 rm i8) ∧
    (s.x86.Updates w rm → xors (.x86XorRmImm rm i32) w rm (i32.setWidth w)) ∧
    (s.x86.Updates w rm → xors (.x86XorRmImm8 rm i8) w rm (i8.signExtend w)) ∧
    (s.x86.Updates 8 rm → xors (.x86XorRm8R8 rm r) 8 rm (s.x86.readReg 8 r)) ∧
    (s.x86.Updates w rm → xors (.x86XorRmR rm r) w rm (s.x86.readReg w r)) ∧
    (s.x86.Reaches 8 rm .read → xors (.x86XorR8Rm8 r rm) 8 (.reg r) (s.x86.operand 8 rm)) ∧
    (s.x86.Reaches w rm .read → xors (.x86XorRRm r rm) w (.reg r) (s.x86.operand w rm))

/-- ADD, nine forms: the sum, and the six flags as integer conditions on the operands. PF and AF are supplied by the
spec (R252, notes/assumptions/42.md). -/
def Obligations.AddForms : Prop :=
  ∀ (s : State) (w : Nat) (rm : X86RM) (r : BitVec 3) (i8 : BitVec 8) (i32 : BitVec 32),
    Memory.wf top32 s.x86.mem → w = s.x86.opSize →
    let adds (i : Instr) (w : Nat) (dst : X86RM) (src : BitVec w) : Prop :=
      X86Writes i s w dst (s.x86.operand w dst + src) (SumFlags (s.x86.operand w dst) src false)
    adds (.x86AddAlImm8 i8) 8 (.reg 0) i8 ∧
    adds (.x86AddAxImm i32) w (.reg 0) (i32.setWidth w) ∧
    (s.x86.Updates 8 rm → adds (.x86AddRm8Imm8 rm i8) 8 rm i8) ∧
    (s.x86.Updates w rm → adds (.x86AddRmImm rm i32) w rm (i32.setWidth w)) ∧
    (s.x86.Updates w rm → adds (.x86AddRmImm8 rm i8) w rm (i8.signExtend w)) ∧
    (s.x86.Updates 8 rm → adds (.x86AddRm8R8 rm r) 8 rm (s.x86.readReg 8 r)) ∧
    (s.x86.Updates w rm → adds (.x86AddRmR rm r) w rm (s.x86.readReg w r)) ∧
    (s.x86.Reaches 8 rm .read → adds (.x86AddR8Rm8 r rm) 8 (.reg r) (s.x86.operand 8 rm)) ∧
    (s.x86.Reaches w rm .read → adds (.x86AddRRm r rm) w (.reg r) (s.x86.operand w rm))

/-- ADC, nine forms: the sum with the CF before, and the six flags. PF and AF are supplied by the spec (R252,
notes/assumptions/42.md). -/
def Obligations.AdcForms : Prop :=
  ∀ (s : State) (w : Nat) (rm : X86RM) (r : BitVec 3) (i8 : BitVec 8) (i32 : BitVec 32),
    Memory.wf top32 s.x86.mem → w = s.x86.opSize →
    let adcs (i : Instr) (w : Nat) (dst : X86RM) (src : BitVec w) : Prop :=
      X86Writes i s w dst (s.x86.operand w dst + src + (if s.x86.flags.cf then 1 else 0))
        (SumFlags (s.x86.operand w dst) src s.x86.flags.cf)
    adcs (.x86AdcAlImm8 i8) 8 (.reg 0) i8 ∧
    adcs (.x86AdcAxImm i32) w (.reg 0) (i32.setWidth w) ∧
    (s.x86.Updates 8 rm → adcs (.x86AdcRm8Imm8 rm i8) 8 rm i8) ∧
    (s.x86.Updates w rm → adcs (.x86AdcRmImm rm i32) w rm (i32.setWidth w)) ∧
    (s.x86.Updates w rm → adcs (.x86AdcRmImm8 rm i8) w rm (i8.signExtend w)) ∧
    (s.x86.Updates 8 rm → adcs (.x86AdcRm8R8 rm r) 8 rm (s.x86.readReg 8 r)) ∧
    (s.x86.Updates w rm → adcs (.x86AdcRmR rm r) w rm (s.x86.readReg w r)) ∧
    (s.x86.Reaches 8 rm .read → adcs (.x86AdcR8Rm8 r rm) 8 (.reg r) (s.x86.operand 8 rm)) ∧
    (s.x86.Reaches w rm .read → adcs (.x86AdcRRm r rm) w (.reg r) (s.x86.operand w rm))

/-- MOV between registers, memory, immediates and moffs, twelve forms: the source at the destination, no flag. That
MOV writes no flag is supplied by the spec (R266, notes/assumptions/42.md). -/
def Obligations.MovForms : Prop :=
  ∀ (s : State) (w : Nat) (rm : X86RM) (r : BitVec 3) (i8 : BitVec 8) (i32 : BitVec 32),
    Memory.wf top32 s.x86.mem → w = s.x86.opSize →
    let movs (i : Instr) (w : Nat) (dst : X86RM) (src : BitVec w) : Prop := X86Writes i s w dst src (· = s.x86.flags)
    let stores (i : Instr) (w : Nat) (src : BitVec w) : Prop := X86Completes i s fun y =>
      Memory.Stored .little top32 s.x86.mem y.mem (s.x86.moffsAt i32 (w / 8) .write) src ∧ X86State.Keeps [] s.x86 y ∧
      y.flags = s.x86.flags ∧ X86State.Passes i s.x86 y
    (s.x86.Reaches 8 rm .write → movs (.x86MovRm8R8 rm r) 8 rm (s.x86.readReg 8 r)) ∧
    (s.x86.Reaches w rm .write → movs (.x86MovRmR rm r) w rm (s.x86.readReg w r)) ∧
    (s.x86.Reaches 8 rm .read → movs (.x86MovR8Rm8 r rm) 8 (.reg r) (s.x86.operand 8 rm)) ∧
    (s.x86.Reaches w rm .read → movs (.x86MovRRm r rm) w (.reg r) (s.x86.operand w rm)) ∧
    movs (.x86MovR8Imm8 r i8) 8 (.reg r) i8 ∧
    movs (.x86MovRImm r i32) w (.reg r) (i32.setWidth w) ∧
    (s.x86.Reaches 8 rm .write → movs (.x86MovRm8Imm8 rm i8) 8 rm i8) ∧
    (s.x86.Reaches w rm .write → movs (.x86MovRmImm rm i32) w rm (i32.setWidth w)) ∧
    (s.x86.Allows s.x86.moffsSeg (s.x86.moffs i32) 1 .read →
      movs (.x86MovAlMoffs i32) 8 (.reg 0) (Memory.read .little top32 8 s.x86.mem (s.x86.moffsAt i32 1 .read))) ∧
    (s.x86.Allows s.x86.moffsSeg (s.x86.moffs i32) (w / 8) .read →
      movs (.x86MovAxMoffs i32) w (.reg 0)
        (Memory.read .little top32 w s.x86.mem (s.x86.moffsAt i32 (w / 8) .read))) ∧
    (s.x86.Allows s.x86.moffsSeg (s.x86.moffs i32) 1 .write →
      stores (.x86MovMoffsAl i32) 8 (s.x86.readReg 8 0)) ∧
    (s.x86.Allows s.x86.moffsSeg (s.x86.moffs i32) (w / 8) .write →
      stores (.x86MovMoffsAx i32) w (s.x86.readReg w 0))

/-- MOV r/m16, Sreg: the selector in two bytes of memory or in the low half of the register, whose upper half is then
any value unless the code segment is 16-bit and no operand-size prefix stands; `#UD` for numbers 6 and 7. The free
upper half is the spec's decision D16 and the model's reading of it (notes/assumptions/42.md, 16.md), the numbers 6
and 7 are supplied by the spec (R268). -/
def Obligations.MovFromSelector : Prop :=
  ∀ (s : State) (rm : X86RM) (m : X86Mem) (n sr : BitVec 3) (g : X86Sreg), Memory.wf top32 s.x86.mem →
    (6 ≤ sr.toNat → Raises (.x86MovRmSreg rm sr) s (.x86 .ud)) ∧
    ((sr, g) ∈ [(0#3, X86Sreg.es), (1#3, .cs), (2#3, .ss), (3#3, .ds), (4#3, .fs), (5#3, .gs)] →
      (s.x86.Reaches 16 (.mem m) .write →
        X86Writes (.x86MovRmSreg (.mem m) sr) s 16 (.mem m) (s.x86.segs.get g).sel (· = s.x86.flags)) ∧
      X86Completes (.x86MovRmSreg (.reg n) sr) s fun y =>
        y.readReg 16 n = (s.x86.segs.get g).sel ∧ X86State.Keeps [(32, n)] s.x86 y ∧
        (s.x86.segs.cs.desc.big = false → s.x86.pfx.op = false → X86State.Keeps [(16, n)] s.x86 y) ∧
        Memory.Same s.x86.mem y.mem ∧ y.flags = s.x86.flags ∧
        X86State.Passes (.x86MovRmSreg (.reg n) sr) s.x86 y)

/-- MOV Sreg, r/m16 and POP DS, ES, FS, GS, SS: a null selector in protected mode marks DS, ES, FS, GS null and is
`#GP(0)` for SS; otherwise X86_LOADSEG's entry is followed; CS and numbers 6 and 7 are `#UD`. POP moves the stack
pointer by the size in force before the load, and POP SS inhibits interrupts for one instruction. Which bytes POP
reads is the spec's decision D13, and a load that X86_LOADSEG does not list is not spoken of (notes/assumptions/42.md,
12.md). Two clauses are the model's choice: MOV SS, which the source leaves open, ends with the inhibit latch clear
(17.md), and `#UD` comes before any fault of the operand (41.md). -/
def Obligations.SegmentLoads : Prop :=
  ∀ (s : State) (w : Nat) (rm : X86RM) (sr : BitVec 3) (g : X86Sreg) (i : Instr) (d : X86Descriptor) (e : X86Exc),
    w = s.x86.opSize →
    let top : Nat := s.x86.stackAt s.x86.topOfStack (w / 8) .stackRead
    let popped : Half := (Memory.read .little top32 w s.x86.mem top).setWidth 16
    let sel : Half := if i = .x86MovSregRm sr rm then s.x86.operand 16 rm else popped
    let isNull : Prop := s.x86.pe = true ∧ s.x86.vm = false ∧ sel.toNat < 4
    (sr = 1#3 ∨ 6 ≤ sr.toNat → Raises (.x86MovSregRm sr rm) s (.x86 .ud)) ∧
    ((i = .x86MovSregRm sr rm ∧ s.x86.Reaches 16 rm .read ∧
        (sr, g) ∈ [(0#3, X86Sreg.es), (2#3, .ss), (3#3, .ds), (4#3, .fs), (5#3, .gs)]) ∨
      ((i, g) ∈ [(Instr.x86PopDs, X86Sreg.ds), (.x86PopEs, .es), (.x86PopFs, .fs), (.x86PopGs, .gs),
        (.x86PopSs, .ss)] ∧ s.x86.CanPop (w / 8)) →
      let after (v : X86Seg → Prop) (y : X86State) : Prop :=
        v (y.segs.get g) ∧ (∀ h, h ≠ g → y.segs.get h = s.x86.segs.get h) ∧
        (if i = .x86MovSregRm sr rm then y.gpr = s.x86.gpr else y.gpr = (s.x86.setSp (s.x86.popTo (w / 8))).gpr) ∧
        (if i = .x86PopSs then s.x86.inhibitNext = false → y.inhibitNext = true else y.inhibitNext = false) ∧
        X86State.KeepsControl s.x86 y ∧ Memory.Same s.x86.mem y.mem ∧ y.flags = s.x86.flags ∧
        X86State.Passes i s.x86 y
      (isNull → g ≠ .ss → X86Completes i s (after fun v => v.sel = sel ∧ v.null = true)) ∧
      (isNull → g = .ss → Raises i s (.x86 (.gp 0))) ∧
      (¬ isNull → s.x86.Listed g sel (.loaded d) →
        X86Completes i s (after fun v => v.sel = sel ∧ v.null = false ∧ v.desc = d)) ∧
      (¬ isNull → s.x86.Listed g sel (.raises e) → Raises i s (.x86 e)))

/-- LOOP, LOOPE, LOOPNE: the count register counts down modulo its size, and the branch is taken while it is not zero
and the condition on ZF holds; a target outside the code-segment limit is `#GP(0)`, in every mode (the model's choice,
notes/assumptions/21.md, 14.md). -/
def Obligations.LoopForms : Prop :=
  ∀ (s : State) (aw : Nat) (rel : BitVec 8) (i : Instr) (cond : Bool), aw = s.x86.addrSize →
    (i, cond) ∈ [(Instr.x86Loop rel, true), (.x86Loope rel, s.x86.flags.zf), (.x86Loopne rel, !s.x86.flags.zf)] →
    let count : BitVec aw := s.x86.readReg aw 1 - 1
    let next : Word := s.x86.eip + BitVec.ofNat 32 (s.x86.lengthOf i)
    let target : Word := if s.x86.op32 then next + rel.signExtend 32 else (next + rel.signExtend 32) &&& 0xFFFF#32
    let taken : Prop := count ≠ 0 ∧ cond = true
    let done (eip : Word) (y : X86State) : Prop :=
      y.readReg aw 1 = count ∧ y.eip = eip ∧ X86State.Keeps [(aw, 1)] s.x86 y ∧ Memory.Same s.x86.mem y.mem ∧
      y.flags = s.x86.flags
    (¬ taken → X86Completes i s (done next)) ∧
    (taken → target.toNat ≤ s.x86.segs.cs.desc.limit.toNat → X86Completes i s (done target)) ∧
    (taken → s.x86.segs.cs.desc.limit.toNat < target.toNat → Raises i s (.x86 (.gp 0)))

/-- SHRD by an immediate or by CL, the count modulo 32: nothing for a count of 0; below the size the result bit by
bit, CF the last bit out, OF for a count of 1; from the size up a destination and flags of any value. PF is supplied
by the spec (R252, notes/assumptions/42.md). -/
def Obligations.ShrdForms : Prop :=
  ∀ (s : State) (w : Nat) (rm : X86RM) (r : BitVec 3) (i8 : BitVec 8) (i : Instr) (count : Nat),
    Memory.wf top32 s.x86.mem → w = s.x86.opSize → s.x86.Updates w rm →
    (i, count) ∈ [(Instr.x86ShrdImm rm r i8, i8.toNat % 32), (.x86ShrdCl rm r, (s.x86.readReg 8 1).toNat % 32)] →
    let a : BitVec w := s.x86.operand w rm
    let b : BitVec w := s.x86.readReg w r
    (count = 0 → X86Completes i s fun y => X86State.Keeps [] s.x86 y ∧ Memory.Same s.x86.mem y.mem ∧
      y.flags = s.x86.flags ∧ X86State.Passes i s.x86 y) ∧
    (w ≤ count → ∃ v : BitVec w, X86Writes i s w rm v fun _ => True) ∧
    (0 < count → count < w → ∀ v : BitVec w,
      (∀ k, k < w → v.getLsbD k = if k + count < w then a.getLsbD (k + count) else b.getLsbD (k + count - w)) →
      X86Writes i s w rm v fun f => f.cf = a.getLsbD (count - 1) ∧ ResultFlags v f ∧
        (count = 1 → f.ovf = (v.msb ^^ a.msb)))

/-- XCHG: both operands swapped, the same register twice included; no flag. -/
def Obligations.XchgForms : Prop :=
  ∀ (s : State) (w v : Nat) (m : X86Mem) (n r : BitVec 3) (i : Instr), Memory.wf top32 s.x86.mem → w = s.x86.opSize →
    ((i, v, n) ∈ [(Instr.x86XchgAxR r, w, 0#3), (.x86XchgRm8R8 (.reg n) r, 8, n), (.x86XchgRmR (.reg n) r, w, n)] →
      X86Completes i s fun y => y.readReg v n = s.x86.readReg v r ∧ y.readReg v r = s.x86.readReg v n ∧
        X86State.Keeps [(v, n), (v, r)] s.x86 y ∧ Memory.Same s.x86.mem y.mem ∧ y.flags = s.x86.flags ∧
        X86State.Passes i s.x86 y) ∧
    ((i, v) ∈ [(Instr.x86XchgRm8R8 (.mem m) r, 8), (.x86XchgRmR (.mem m) r, w)] → s.x86.Updates v (.mem m) →
      X86Completes i s fun y => y.readReg v r = s.x86.operand v (.mem m) ∧
        Memory.Stored .little top32 s.x86.mem y.mem (s.x86.memAt m (v / 8) .write) (s.x86.readReg v r) ∧
        X86State.Keeps [(v, r)] s.x86 y ∧ y.flags = s.x86.flags ∧ X86State.Passes i s.x86 y)

/-- POP into a register and into memory: the stack pointer moves up first, then the destination is written, an
effective address through ESP being that after the increment. Where a 16-bit stack pointer wraps and ESP is the base,
the value goes to the location of X86_POP_WRAP_LOC, `wrapLoc`, and the access there faults as any other: the operand's
own location or the one that the parameter gives, and any location, a free value, where the parameter leaves it open
(the model's choice, notes/assumptions/13.md). -/
def Obligations.PopForms : Prop :=
  ∀ (s : State) (w : Nat) (m : X86Mem) (r : BitVec 3),
    Memory.wf top32 s.x86.mem → w = s.x86.opSize → s.x86.CanPop (w / 8) →
    let v : BitVec w := Memory.read .little top32 w s.x86.mem (s.x86.stackAt s.x86.topOfStack (w / 8) .stackRead)
    let up : X86State := s.x86.setSp (s.x86.popTo (w / 8))
    (X86Completes (.x86PopReg r) s fun y => X86State.Wrote w (.reg r) v up y ∧ y.flags = s.x86.flags ∧
      X86State.Passes (.x86PopReg r) s.x86 y) ∧
    (s.x86.popWraps m (w / 8) = false → up.Reaches w (.mem m) .write →
      X86Completes (.x86PopMem m) s fun y => X86State.Wrote w (.mem m) v up y ∧ y.flags = s.x86.flags ∧
        X86State.Passes (.x86PopMem m) s.x86 y) ∧
    (s.x86.popWraps m (w / 8) = true →
      let place : X86Sreg × Word := (up.wrapLoc m).1
      (s.x86.params.popWrap = .computed → place = (up.segOf m, up.ea m)) ∧
      (∀ g off, s.x86.params.popWrap = .lies g off → place = (g, off)) ∧
      (up.Allows place.1 place.2 (w / 8) .write → X86Completes (.x86PopMem m) s fun y =>
        Memory.Stored .little top32 s.x86.mem y.mem (up.locate place.1 place.2 (w / 8) .write).toNat v ∧
        X86State.Keeps [] up y ∧ y.flags = s.x86.flags ∧ X86State.Passes (.x86PopMem m) s.x86 y) ∧
      (∀ e, up.xseg place.1 place.2 (w / 8) .write = .error e → Raises (.x86PopMem m) s (.x86 e)))

/-- Near RET, with and without an immediate: EIP from the stack, the stack released; `#GP(0)` outside the code-segment
limit. The limit check at both sizes is the spec's derivation (R296), the stack bytes that must lie inside the stack
limit are its decision D12, and that the immediate is zero-extended is supplied by it (R297; notes/assumptions/42.md).
That both limit tests hold in every mode, where R296 makes them through X86_SEG, is the model's choice (14.md). -/
def Obligations.RetForms : Prop :=
  ∀ (s : State) (w : Nat) (imm : BitVec 16) (i : Instr) (extra : Word), w = s.x86.opSize → s.x86.CanPop (w / 8) →
    ¬ s.x86.Outside .ss s.x86.topOfStack (w / 8) →
    (i, extra) ∈ [(Instr.x86Ret, 0#32), (.x86RetImm imm, imm.setWidth 32)] →
    let top : Nat := s.x86.stackAt s.x86.topOfStack (w / 8) .stackRead
    let target : Word := (Memory.read .little top32 w s.x86.mem top).setWidth 32
    (target.toNat ≤ s.x86.segs.cs.desc.limit.toNat → X86Completes i s fun y =>
      y.eip = target ∧ y.topOfStack = s.x86.stackUp (BitVec.ofNat 32 (w / 8) + extra) ∧
      X86State.Keeps [s.x86.stackPart] s.x86 y ∧ Memory.Same s.x86.mem y.mem ∧ y.flags = s.x86.flags) ∧
    (s.x86.segs.cs.desc.limit.toNat < target.toNat → Raises i s (.x86 (.gp 0)))

/-- A prefix is the same instruction with the prefix in force, and a prefixed MOV completes: 66 flips the operand
size, 67 the address size, an override replaces the segment. The bytes and their effect are supplied by the spec
(R158, notes/assumptions/42.md). -/
def Obligations.PrefixForms : Prop :=
  ∀ (s : State) (i : Instr), i.part = .p1 →
    (s.x86.pfx.op = false → exec (.x86OpSize i) s = exec i (s.withPfx { s.x86.pfx with op := true })) ∧
    (s.x86.pfx.addr = false → exec (.x86AddrSize i) s = exec i (s.withPfx { s.x86.pfx with addr := true })) ∧
    (∀ (g : X86Sreg), s.x86.pfx.seg = none →
      exec (overridden i g) s = exec i (s.withPfx { s.x86.pfx with seg := some g })) ∧
    (s.x86.pfx = .none → ∀ (r : BitVec 3) (v : BitVec 32) (m : X86Mem) (w : Nat) (g : X86Sreg) (j : Instr),
      (w = (if s.x86.segs.cs.desc.big then 16 else 32) →
        X86Writes (.x86OpSize (.x86MovRImm r v)) s w (.reg r) (v.setWidth w) (· = s.x86.flags)) ∧
      (let off : Word := if s.x86.segs.cs.desc.big then (v.setWidth 16).setWidth 32 else v
       s.x86.Allows .ds off 1 .read →
        X86Writes (.x86AddrSize (.x86MovAlMoffs v)) s 8 (.reg 0)
          (Memory.read .little top32 8 s.x86.mem (s.x86.locate .ds off 1 .read).toNat) (· = s.x86.flags)) ∧
      ((j, g) ∈ [(Instr.x86SegCs (.x86MovR8Rm8 r (.mem m)), X86Sreg.cs), (.x86SegSs (.x86MovR8Rm8 r (.mem m)), .ss),
          (.x86SegDs (.x86MovR8Rm8 r (.mem m)), .ds), (.x86SegEs (.x86MovR8Rm8 r (.mem m)), .es),
          (.x86SegFs (.x86MovR8Rm8 r (.mem m)), .fs), (.x86SegGs (.x86MovR8Rm8 r (.mem m)), .gs)] →
        s.x86.Allows g (s.x86.ea m) 1 .read →
        X86Writes j s 8 (.reg r)
          (Memory.read .little top32 8 s.x86.mem (s.x86.locate g (s.x86.ea m) 1 .read).toNat) (· = s.x86.flags)))

/-- The far returns and the LOCK prefix: the bytes CB, CA iw and F0 decode to them, whatever bytes follow, and each is
refused. -/
def Obligations.FarReturnAndLockRefused : Prop :=
  ∀ (s : State) (csD : Bool) (imm : BitVec 16) (lo hi : Byte) (rest : List Byte),
    decode .p1 csD (.bytes (0xCB :: rest)) = .ok .x86RetFar ∧
    decode .p1 csD (.bytes (0xCA :: lo :: hi :: rest)) = .ok (.x86RetFarImm (hi ++ lo)) ∧
    decode .p1 csD (.bytes (0xF0 :: rest)) = .ok .x86Lock ∧
    exec .x86RetFar s = .refused .farReturn ∧ exec (.x86RetFarImm imm) s = .refused .farReturn ∧
    exec .x86Lock s = .refused .lockPrefix

/-! ### P2 -/

/-- The fifteen condition codes, tested on the flags before the instruction: when the test fails the instruction does
nothing but go to the next one. The code 1111 is refused. That a BX whose test fails does nothing on architecture v4
either is the spec's decision D21 (R358, notes/assumptions/42.md). -/
def Obligations.ArmConditionCodes : Prop :=
  ∀ (s : State) (i : Instr) (code : BitVec 4) (c : ArmCond) (w : Word),
    (code ≠ 15#4 → ∃ k, ArmCond.ofCode code = some k) ∧
    (ArmCond.ofCode code = some c → (s.arm.passes c = true ↔ s.arm.Holds code)) ∧
    (ArmCond.ofCode code = some c → armCondOf i = some c → ¬ s.arm.Holds code →
      ArmCompletes i s fun b => b.pc = s.arm.pc + 4 ∧ ArmState.Keeps [] s.arm b ∧ b.cpsr = s.arm.cpsr) ∧
    (w.extractLsb' 28 4 = 15#4 → decode .p2 false (.word w) = .error .armNever)

/-- The two shifted shifter operands and their carry-out; R15 as a register operand reads as the instruction's address
plus 8. -/
def Obligations.ArmShiftedOperands : Prop :=
  ∀ (a : ArmState) (rm rn : BitVec 4) (sh : BitVec 5),
    let v : Word := if rm = 15#4 then a.reg 15 + 8 else a.reg rm
    a.readReg rn = (if rn = 15#4 then a.reg 15 + 8 else a.reg rn) ∧
    a.opLsl 0 rm = (v, a.c) ∧
    (0 < sh.toNat → (a.opLsl sh rm).1.toNat = v.toNat * 2 ^ sh.toNat % 2 ^ 32 ∧
      (a.opLsl sh rm).2 = v.getLsbD (32 - sh.toNat)) ∧
    a.opLsr 0 rm = (0, v.getLsbD 31) ∧
    (0 < sh.toNat → (a.opLsr sh rm).1.toNat = v.toNat / 2 ^ sh.toNat ∧
      (a.opLsr sh rm).2 = v.getLsbD (sh.toNat - 1))

/-- The immediate shifter operand, bit by bit, and its carry-out. The source has lost its page: the rule is one that the
spec supplies (R335, notes/assumptions/42.md). -/
def Obligations.ArmImmediateOperand : Prop :=
  ∀ (a : ArmState) (rot : BitVec 4) (imm : BitVec 8),
    (∀ k, k < 32 → (a.opImm rot imm).1.getLsbD k = imm.getLsbD ((k + 2 * rot.toNat) % 32)) ∧
    (a.opImm rot imm).2 = (if rot = 0 then a.c else (a.opImm rot imm).1.getLsbD 31)

/-- MOV, ORR, ADD, ADC, SUB to a register other than R15, with each of the three operands: the result, the flags of
the S forms as integer conditions, and no other change. Carry, borrow and overflow as the spec supplies them (R332,
notes/assumptions/42.md). -/
def Obligations.ArmDataProcessing : Prop :=
  ∀ (s : State) (c : ArmCond) (sf : Bool) (rn rd rot rm : BitVec 4) (imm : BitVec 8) (sh : BitVec 5)
    (o : Word × Bool) (mov orr add adc sub : Instr), s.arm.passes c = true → rd ≠ 15#4 →
    (o, mov, orr, add, adc, sub) ∈
      [(s.arm.opImm rot imm, Instr.armMovImm c sf rd rot imm, Instr.armOrrImm c sf rn rd rot imm,
        Instr.armAddImm c sf rn rd rot imm, Instr.armAdcImm c sf rn rd rot imm, Instr.armSubImm c sf rn rd rot imm),
       (s.arm.opLsl sh rm, .armMovLsl c sf rd sh rm, .armOrrLsl c sf rn rd sh rm, .armAddLsl c sf rn rd sh rm,
        .armAdcLsl c sf rn rd sh rm, .armSubLsl c sf rn rd sh rm),
       (s.arm.opLsr sh rm, .armMovLsr c sf rd sh rm, .armOrrLsr c sf rn rd sh rm, .armAddLsr c sf rn rd sh rm,
        .armAdcLsr c sf rn rd sh rm, .armSubLsr c sf rn rd sh rm)] →
    let x : Word := s.arm.readReg rn
    let y : Word := o.1
    let carry : Nat := s.arm.c.toNat
    let gives (i : Instr) (r : Word) (cf vf : Prop) : Prop := ArmCompletes i s fun b =>
      b.reg rd = r ∧ b.pc = s.arm.pc + 4 ∧ ArmState.Keeps [rd] s.arm b ∧
      (sf = true → ArmState.Flagged s.arm b r cf vf) ∧ (sf = false → b.cpsr = s.arm.cpsr)
    gives mov y (o.2 = true) (s.arm.v = true) ∧
    gives orr (x ||| y) (o.2 = true) (s.arm.v = true) ∧
    gives add (x + y) (2 ^ 32 ≤ x.toNat + y.toNat) (Overflows32 (x.toInt + y.toInt)) ∧
    gives adc (BitVec.ofNat 32 (x.toNat + y.toNat + carry)) (2 ^ 32 ≤ x.toNat + y.toNat + carry)
      (Overflows32 (x.toInt + y.toInt + carry)) ∧
    gives sub (x - y) (y.toNat ≤ x.toNat) (Overflows32 (x.toInt - y.toInt))

/-- The same instructions with Rd = R15: a branch to the result; with S the CPSR becomes the SPSR of the current mode,
registers banked between the two modes then holding any value; refused in User and System mode, and at a result that
is not word aligned. The low bits and the banked registers are the spec's decisions D14 and D15
(notes/assumptions/42.md, 22.md), the number of FIQ mode is presumed (23.md). That every mode number but those of User
and System has an SPSR is the model's choice (24.md). -/
def Obligations.ArmWritePc : Prop :=
  ∀ (s : State) (c : ArmCond) (sf : Bool) (rn rot rm : BitVec 4) (imm : BitVec 8) (sh : BitVec 5) (o : Word × Bool)
    (i : Instr) (r : Word), s.arm.passes c = true →
    let x : Word := s.arm.readReg rn
    let carry : Word := if s.arm.c then 1 else 0
    (o = s.arm.opImm rot imm ∧
        (i, r) ∈ [(Instr.armMovImm c sf 15 rot imm, o.1), (.armOrrImm c sf rn 15 rot imm, x ||| o.1),
          (.armAddImm c sf rn 15 rot imm, x + o.1), (.armAdcImm c sf rn 15 rot imm, x + o.1 + carry),
          (.armSubImm c sf rn 15 rot imm, x - o.1)] ∨
      o = s.arm.opLsl sh rm ∧
        (i, r) ∈ [(Instr.armMovLsl c sf 15 sh rm, o.1), (.armOrrLsl c sf rn 15 sh rm, x ||| o.1),
          (.armAddLsl c sf rn 15 sh rm, x + o.1), (.armAdcLsl c sf rn 15 sh rm, x + o.1 + carry),
          (.armSubLsl c sf rn 15 sh rm, x - o.1)] ∨
      o = s.arm.opLsr sh rm ∧
        (i, r) ∈ [(Instr.armMovLsr c sf 15 sh rm, o.1), (.armOrrLsr c sf rn 15 sh rm, x ||| o.1),
          (.armAddLsr c sf rn 15 sh rm, x + o.1), (.armAdcLsr c sf rn 15 sh rm, x + o.1 + carry),
          (.armSubLsr c sf rn 15 sh rm, x - o.1)]) →
    let old : BitVec 5 := s.arm.mode
    let status : Word := s.arm.spsr[old.toNat]'old.isLt
    let fiq : Prop := old = 0x11#5 ∨ status.extractLsb' 0 5 = 0x11#5
    let banked (n : BitVec 4) : Prop :=
      status.extractLsb' 0 5 ≠ old ∧ (n = 13#4 ∨ n = 14#4 ∨ fiq ∧ 8#4 ≤ n ∧ n ≤ 12#4)
    (sf = false → r.toNat % 4 = 0 →
      ArmCompletes i s fun b => b.pc = r ∧ ArmState.Keeps [] s.arm b ∧ b.cpsr = s.arm.cpsr) ∧
    (sf = true → old ≠ 0x10#5 → old ≠ 0x1F#5 → r.toNat % 4 = 0 →
      ArmCompletes i s fun b => b.pc = r ∧ b.cpsr = status ∧ (∀ n, n ≠ 15#4 → ¬ banked n → b.reg n = s.arm.reg n) ∧
        b.spsr = s.arm.spsr ∧ b.params = s.arm.params ∧ Memory.Same s.arm.mem b.mem) ∧
    (sf = true → old = 0x10#5 ∨ old = 0x1F#5 → exec i s = .refused .armNoSpsr) ∧
    ((sf = false ∨ old ≠ 0x10#5 ∧ old ≠ 0x1F#5) → r.toNat % 4 ≠ 0 → exec i s = .refused .armPcLowBits)

/-- LDR with both offsets and the three modes: the rotated word, the base written back, a branch when Rd is R15, the
alignment and Data Abort exceptions, and the refused forms. The low bits of a loaded PC are the spec's decision D14,
R15 with write-back and the offsets are supplied by the spec (R168, R350; notes/assumptions/42.md, 22.md); the order
of the checks is notes/assumptions/41.md. That the alignment exception carries the data address is the model's reading
of R682 (48.md). -/
def Obligations.ArmLdr : Prop :=
  ∀ (s : State) (c : ArmCond) (mode : ArmIndex) (up : Bool) (rn rd rm : BitVec 4) (o12 : BitVec 12) (sh : BitVec 5)
    (i : Instr) (off : Word), s.arm.passes c = true →
    (i, off) ∈ [(Instr.armLdrImm c mode up rn rd o12, o12.setWidth 32),
      (.armLdrReg c mode up rn rd sh rm, s.arm.readReg rm <<< sh.toNat)] →
    let base : Word := s.arm.readReg rn
    let indexed : Word := if up then base + off else base - off
    let addr : Word := if mode = .post then base else indexed
    let back : Prop := mode ≠ .offset
    let legal : Prop := ¬ (back ∧ (rd = rn ∨ rn = 15#4))
    let aligned : Prop := s.arm.params.alignCheck = true → addr.toNat % 4 = 0
    let word : Word := Memory.read s.arm.params.order top32 32 s.arm.mem (addr.toNat - addr.toNat % 4)
    let value : Word := word.rotateRight (8 * (addr.toNat % 4))
    let loaded (ds : List (BitVec 4)) (b : ArmState) : Prop :=
      (back → b.reg rn = indexed) ∧ ArmState.Keeps (if mode = .offset then ds else rn :: ds) s.arm b ∧
      b.cpsr = s.arm.cpsr
    (legal → aligned → ¬ InRegion s.arm.params.aborts addr.toNat →
      (rd ≠ 15#4 → ArmCompletes i s fun b => b.reg rd = value ∧ b.pc = s.arm.pc + 4 ∧ loaded [rd] b) ∧
      (rd = 15#4 → value.toNat % 4 = 0 → ArmCompletes i s fun b => b.pc = value ∧ loaded [] b) ∧
      (rd = 15#4 → value.toNat % 4 ≠ 0 → exec i s = .refused .armPcLowBits)) ∧
    (legal → ¬ aligned → Raises i s (.armAlignment addr)) ∧
    (legal → aligned → InRegion s.arm.params.aborts addr.toNat →
      (¬ back → Raises i s (.armDataAbort addr)) ∧
      (back → ∃ b : ArmState,
        exec i s = .fault (.raised (.armDataAbort addr) { s with arm := b, x86 := { s.x86 with pfx := .none } }) ∧
        (b.reg rn = s.arm.reg rn ∨ b.reg rn = indexed) ∧ (∀ n, n ≠ rn → b.reg n = s.arm.reg n) ∧
        b.cpsr = s.arm.cpsr ∧ b.spsr = s.arm.spsr ∧ Memory.Same s.arm.mem b.mem)) ∧
    (back → rd = rn → exec i s = .refused .armWritebackRd) ∧
    (back → rd ≠ rn → rn = 15#4 → exec i s = .refused .armWritebackPc)

/-- B, BL and BX: the target, the link, the T flag; refused past the ends of the address space; BX is undefined on
architecture v4. The place of the T flag in CPSR is supplied by the spec (R33, notes/assumptions/42.md). -/
def Obligations.ArmBranches : Prop :=
  ∀ (s : State) (c : ArmCond) (off : BitVec 24) (rm : BitVec 4), s.arm.passes c = true →
    let target : Int := s.arm.pc.toNat + 8 + 4 * off.toInt
    let v : Word := s.arm.readReg rm
    (0 ≤ target → target < 2 ^ 32 →
      (ArmCompletes (.armB c off) s fun b =>
        (b.pc.toNat : Int) = target ∧ ArmState.Keeps [] s.arm b ∧ b.cpsr = s.arm.cpsr) ∧
      (ArmCompletes (.armBl c off) s fun b =>
        (b.pc.toNat : Int) = target ∧ b.reg 14 = s.arm.pc + 4 ∧ ArmState.Keeps [14#4] s.arm b ∧
        b.cpsr = s.arm.cpsr)) ∧
    (target < 0 ∨ 2 ^ 32 ≤ target →
      exec (.armB c off) s = .refused .armBranchWrap ∧ exec (.armBl c off) s = .refused .armBranchWrap) ∧
    (s.arm.params.v4T = false → Raises (.armBx c rm) s .armUndefined) ∧
    (s.arm.params.v4T = true → v.getLsbD 0 = false → v.getLsbD 1 = true →
      exec (.armBx c rm) s = .refused .armBxBit1) ∧
    (s.arm.params.v4T = true → v.getLsbD 0 = true ∨ v.getLsbD 1 = false →
      ArmCompletes (.armBx c rm) s fun b =>
        b.pc.toNat = v.toNat / 2 * 2 ∧ b.t = v.getLsbD 0 ∧ ArmState.Keeps [] s.arm b ∧
        ∀ k, k ≠ 5 → b.cpsr.getLsbD k = s.arm.cpsr.getLsbD k)

/-! ### P3 -/

/-- MASK and ROTL, bit by bit, bit {i} being bit 31 − i; the mask wraps when MB > ME. The wrapped mask is supplied by
the spec (R403, notes/assumptions/42.md). -/
def Obligations.PpcMaskRotate : Prop :=
  ∀ (mb me n : BitVec 5) (v : Word) (i : Nat), i < 32 →
    ((ppcMask mb me).getLsbD (31 - i) = true ↔
      (mb ≤ me ∧ mb.toNat ≤ i ∧ i ≤ me.toNat) ∨ (me < mb ∧ (mb.toNat ≤ i ∨ i ≤ me.toNat))) ∧
    (rotl v n).getLsbD (31 - i) = v.getLsbD (31 - (i + n.toNat) % 32)

/-- addi, li, addc and addze: the sum; CA, OV, SO and CR0 as the forms ask; nothing else. CA, OV, SO and CR0 as the
spec supplies them (R391, notes/assumptions/42.md). -/
def Obligations.PpcSums : Prop :=
  ∀ (s : State) (rD rA rB : BitVec 5) (simm : BitVec 16) (oe rc : Bool),
    let p : PpcState := s.ppc
    let kept (q : PpcState) : Prop := PpcState.Keeps [rD] p q ∧ q.lr = p.lr ∧ q.ctr = p.ctr ∧ q.cia = p.cia + 4
    let plain (v : Word) (q : PpcState) : Prop := q.reg rD = v ∧ kept q ∧ q.xer = p.xer ∧ q.cr = p.cr
    let sums (a b : Word) (c : Nat) (q : PpcState) : Prop :=
      q.reg rD = BitVec.ofNat 32 (a.toNat + b.toNat + c) ∧ kept q ∧
      (q.ca = true ↔ 2 ^ 32 ≤ a.toNat + b.toNat + c) ∧
      (oe = true → (q.ov = true ↔ Overflows32 (a.toInt + b.toInt + c)) ∧ q.so = (p.so || q.ov)) ∧
      (oe = false → q.ov = p.ov ∧ q.so = p.so) ∧ (∀ k, k < 29 → q.xer.getLsbD k = p.xer.getLsbD k) ∧
      (rc = true → PpcState.Recorded p q (BitVec.ofNat 32 (a.toNat + b.toNat + c))) ∧ (rc = false → q.cr = p.cr)
    PpcCompletes (.ppcAddi rD rA simm) s (plain ((if rA = 0 then 0 else p.reg rA) + simm.signExtend 32)) ∧
    PpcCompletes (.ppcLi rD simm) s (plain (simm.signExtend 32)) ∧
    PpcCompletes (.ppcAddc rD rA rB oe rc) s (sums (p.reg rA) (p.reg rB) 0) ∧
    PpcCompletes (.ppcAddze rD rA oe rc) s (sums (p.reg rA) 0 p.ca.toNat)

/-- rlwinm and rlwimi, bit by bit; CR0 from the result when Rc = 1; XER, LR and CTR unchanged. The wrapped mask and
CR0 are supplied by the spec (R403, R391; notes/assumptions/42.md). -/
def Obligations.PpcRotates : Prop :=
  ∀ (s : State) (rA rS sh mb me : BitVec 5) (rc : Bool) (i : Instr) (rest : Word),
    (i, rest) ∈ [(Instr.ppcRlwinm rA rS sh mb me rc, 0#32), (.ppcRlwimi rA rS sh mb me rc, s.ppc.reg rA)] →
    let inside (k : Nat) : Prop :=
      if mb ≤ me then mb.toNat ≤ k ∧ k ≤ me.toNat else mb.toNat ≤ k ∨ k ≤ me.toNat
    PpcCompletes i s fun q =>
      (∀ k, k < 32 → (inside k → (q.reg rA).getLsbD (31 - k) = (s.ppc.reg rS).getLsbD (31 - (k + sh.toNat) % 32)) ∧
        (¬ inside k → (q.reg rA).getLsbD (31 - k) = rest.getLsbD (31 - k))) ∧
      PpcState.Keeps [rA] s.ppc q ∧ q.xer = s.ppc.xer ∧ q.lr = s.ppc.lr ∧ q.ctr = s.ppc.ctr ∧
      q.cia = s.ppc.cia + 4 ∧ (rc = true → PpcState.Recorded s.ppc q (q.reg rA)) ∧ (rc = false → q.cr = s.ppc.cr)

/-- bc, bclr and blr: the count register, the condition, the target and the link; nothing else. Where the printed
tables of BO contradict the pseudocode, the spec's resolution C6 is followed (R401, notes/assumptions/42.md). -/
def Obligations.PpcBranches : Prop :=
  ∀ (s : State) (bo bi : BitVec 5) (bd : BitVec 14) (aa lk : Bool),
    let p : PpcState := s.ppc
    let ctr : Word := if bo.getLsbD 2 then p.ctr else p.ctr - 1
    let ok : Prop := (bo.getLsbD 2 = true ∨ (ctr ≠ 0 ↔ bo.getLsbD 1 = false)) ∧
      (bo.getLsbD 4 = true ∨ p.cr.getLsbD (31 - bi.toNat) = bo.getLsbD 3)
    let disp : Word := (bd ++ 0#2).signExtend 32
    let toLr : Word := p.lr.extractLsb' 2 30 ++ 0#2
    let went (link taken : Prop) (ctr target : Word) (q : PpcState) : Prop :=
      (taken → q.cia = target) ∧ (¬ taken → q.cia = p.cia + 4) ∧ q.ctr = ctr ∧ (link → q.lr = p.cia + 4) ∧
      (¬ link → q.lr = p.lr) ∧ q.cr = p.cr ∧ q.xer = p.xer ∧ PpcState.Keeps [] p q
    PpcCompletes (.ppcBc bo bi bd aa lk) s (went (lk = true) ok ctr (if aa then disp else p.cia + disp)) ∧
    PpcCompletes (.ppcBclr bo bi lk) s (went (lk = true) ok ctr toLr) ∧
    PpcCompletes .ppcBlr s (went False True p.ctr toLr)

/-- mtspr, mtxer, mtlr, mtctr: the one special register gets rS; another SPR number ends as PPC_MTSPR_OTHER says in
user mode and is refused outside it. The refusal is the spec's own inference where the source says nothing (R395,
notes/assumptions/26.md). -/
def Obligations.PpcMoveToSpr : Prop :=
  ∀ (s : State) (n : BitVec 10) (rS : BitVec 5) (i : Instr),
    (i = .ppcMtspr n rS ∨ (i, n) ∈ [(Instr.ppcMtxer rS, 1#10), (.ppcMtlr rS, 8#10), (.ppcMtctr rS, 9#10)]) →
    let p : PpcState := s.ppc
    let other (k : PpcMtsprOther) : Prop :=
      n ≠ 1#10 ∧ n ≠ 8#10 ∧ n ≠ 9#10 ∧ p.params.user = true ∧ PpcParams.mtsprOther p.params n = k
    (n = 1#10 ∨ n = 8#10 ∨ n = 9#10 → PpcCompletes i s fun q =>
      q.xer = (if n = 1#10 then p.reg rS else p.xer) ∧ q.lr = (if n = 8#10 then p.reg rS else p.lr) ∧
      q.ctr = (if n = 9#10 then p.reg rS else p.ctr) ∧ q.cr = p.cr ∧ PpcState.Keeps [] p q ∧ q.cia = p.cia + 4) ∧
    (other .illegalInstruction → Raises i s .ppcIllegal) ∧ (other .supervisorInstruction → Raises i s .ppcSupervisor) ∧
    (other .boundedlyUndefined → exec i s = .refused .ppcBoundedlyUndefined) ∧
    (n ≠ 1#10 → n ≠ 8#10 → n ≠ 9#10 → p.params.user = false → exec i s = .refused .ppcSupervisorSpr)

/-- lwzu: the word at EA, aligned or not, and EA in rA; the data storage exception; the invalid forms. That an
unaligned lwzu completes and that the exception is a parameter are the spec's decision D4 (R114), the big-endian order
is its D1 (notes/assumptions/42.md). -/
def Obligations.PpcLoadUpdate : Prop :=
  ∀ (s : State) (rD rA : BitVec 5) (d : BitVec 16),
    let p : PpcState := s.ppc
    let ea : Word := p.reg rA + d.signExtend 32
    (rA ≠ 0 → rA ≠ rD → ¬ InRegion p.params.dsi ea.toNat → PpcCompletes (.ppcLwzu rD rA d) s fun q =>
      q.reg rD = Memory.read .big top32 32 p.mem ea.toNat ∧ q.reg rA = ea ∧ PpcState.Keeps [rD, rA] p q ∧
      q.cr = p.cr ∧ q.xer = p.xer ∧ q.lr = p.lr ∧ q.ctr = p.ctr ∧ q.cia = p.cia + 4) ∧
    (rA ≠ 0 → rA ≠ rD → InRegion p.params.dsi ea.toNat → Raises (.ppcLwzu rD rA d) s (.ppcDsi ea)) ∧
    (rA = 0 ∨ rA = rD → exec (.ppcLwzu rD rA d) s = .refused .ppcInvalidForm)

/-! ### P4 -/

/-- ADD, OR, ADDX, SLL, SRL, SETHI, mov and NOP: the result (r[0] stays zero), no condition code, PC and nPC on. That
a write to r[0] is discarded is the spec's derivation (R44, notes/assumptions/42.md). -/
def Obligations.SparcArithmetic : Prop :=
  ∀ (s : State) (rs1 rd rs2 : BitVec 5) (simm : BitVec 13) (imm : BitVec 22) (o : SparcOp2) (y : Word),
    (o, y) ∈ [(SparcOp2.reg rs2, s.sparc.reg rs2), (.imm simm, simm.signExtend 32)] →
    let p : SparcState := s.sparc
    let x : Word := p.reg rs1
    let gives (i : Instr) (v : Word) : Prop := SparcCompletes i s fun q =>
      q.reg rd = (if rd = 0 then 0 else v) ∧ SparcState.Keeps [rd] p q ∧ SparcState.Advances p q ∧ q.psr = p.psr
    gives (.sparcAdd rs1 o rd) (x + y) ∧ gives (.sparcOr rs1 o rd) (x ||| y) ∧
    gives (.sparcAddx rs1 o rd) (BitVec.ofNat 32 (x.toNat + y.toNat + p.c.toNat)) ∧ gives (.sparcMov o rd) y ∧
    gives (.sparcSll rs1 o rd) (BitVec.ofNat 32 (x.toNat * 2 ^ (y.toNat % 32))) ∧
    gives (.sparcSrl rs1 o rd) (BitVec.ofNat 32 (x.toNat / 2 ^ (y.toNat % 32))) ∧
    gives (.sparcSethi imm rd) (imm ++ 0#10) ∧
    SparcCompletes .sparcNop s fun q => SparcState.Keeps [] p q ∧ SparcState.Advances p q ∧ q.psr = p.psr

/-- ADDcc, SUBcc and cmp: the result and the four condition codes as integer conditions, also for rd = 0. That the
codes are those of the sum also for rd = 0 is the spec's derivation (R454, notes/assumptions/42.md). -/
def Obligations.SparcConditionCodes : Prop :=
  ∀ (s : State) (rs1 rd rs2 : BitVec 5) (simm : BitVec 13) (o : SparcOp2) (y : Word),
    (o, y) ∈ [(SparcOp2.reg rs2, s.sparc.reg rs2), (.imm simm, simm.signExtend 32)] →
    let p : SparcState := s.sparc
    let x : Word := p.reg rs1
    let gives (i : Instr) (rd : BitVec 5) (v : Word) (ovf carry : Prop) : Prop := SparcCompletes i s fun q =>
      q.reg rd = (if rd = 0 then 0 else v) ∧ SparcState.Keeps [rd] p q ∧ SparcState.Advances p q ∧
      SparcState.Coded p q v ovf carry
    gives (.sparcAddcc rs1 o rd) rd (x + y) (Overflows32 (x.toInt + y.toInt)) (2 ^ 32 ≤ x.toNat + y.toNat) ∧
    gives (.sparcSubcc rs1 o rd) rd (x - y) (Overflows32 (x.toInt - y.toInt)) (x.toNat < y.toNat) ∧
    gives (.sparcCmp rs1 o) 0 (x - y) (Overflows32 (x.toInt - y.toInt)) (x.toNat < y.toNat)

/-- Bicc: the sixteen conditions, the delayed target relative to the branch, the annul rule, and the step that an
annulled delay instruction is; in a delay slot a Bicc is refused (the model's choice where the slot is BA's or JMPL's,
notes/assumptions/27.md). -/
def Obligations.SparcBranches : Prop :=
  ∀ (s : State) (code : BitVec 4) (a : Bool) (disp : BitVec 22),
    let p : SparcState := s.sparc
    let i : Instr := .sparcBicc a (SparcCond.ofCode code) disp
    (p.inDelaySlot = false → SparcCompletes i s fun q =>
      q.pc = p.npc ∧ (p.Holds code → q.npc = p.pc + disp.signExtend 32 * 4) ∧
      (¬ p.Holds code → q.npc = p.npc + 4) ∧
      (q.annulNext = true ↔ a = true ∧ (code = 8#4 ∨ ¬ p.Holds code)) ∧ q.inDelaySlot = true ∧ q.psr = p.psr ∧
      SparcState.Keeps [] p q) ∧
    (p.inDelaySlot = true → exec i s = .refused .sparcCtiInSlot) ∧
    (s.part = .p4 → p.annulNext = true → ∃ q : SparcState, step s = .next { s with sparc := q } ∧
      q.pc = p.npc ∧ q.npc = p.npc + 4 ∧ q.annulNext = false ∧ q.inDelaySlot = false ∧ q.psr = p.psr ∧
      SparcState.Keeps [] p q)

/-- JMPL and its synthetic names: the address of the JMPL in rd, the delayed target; a misaligned target traps and
writes nothing; in a delay slot it is refused (the model's choice, notes/assumptions/27.md). That a misaligned target
writes nothing is the spec's decision D23 (notes/assumptions/42.md). The trap carries nothing, as a target is no data
address (R682, 48.md). -/
def Obligations.SparcJumps : Prop :=
  ∀ (s : State) (rs1 rd rs2 : BitVec 5) (simm : BitVec 13) (o : SparcOp2) (y : Word) (i : Instr) (link : BitVec 5)
    (target : Word),
    (o, y) ∈ [(SparcOp2.reg rs2, s.sparc.reg rs2), (.imm simm, simm.signExtend 32)] →
    (i, link, target) ∈ [(Instr.sparcJmpl rs1 o rd, rd, s.sparc.reg rs1 + y),
      (.sparcJmp rs1 o, 0#5, s.sparc.reg rs1 + y), (.sparcCall rs1 o, 15#5, s.sparc.reg rs1 + y),
      (.sparcRet, 0#5, s.sparc.reg 31 + 8), (.sparcRetl, 0#5, s.sparc.reg 15 + 8)] →
    let p : SparcState := s.sparc
    (p.inDelaySlot = false → target.toNat % 4 = 0 → SparcCompletes i s fun q =>
      q.reg link = (if link = 0 then 0 else p.pc) ∧ q.pc = p.npc ∧ q.npc = target ∧ q.annulNext = false ∧
      q.inDelaySlot = true ∧ q.psr = p.psr ∧ SparcState.Keeps [link] p q) ∧
    (p.inDelaySlot = false → target.toNat % 4 ≠ 0 → Raises i s (.sparcNotAligned none)) ∧
    (p.inDelaySlot = true → exec i s = .refused .sparcCtiInSlot)

/-- LD: the big-endian word; the alignment trap, then the data access exception. The alignment condition is supplied
by the spec (R115), the byte order is its decision D1, the discarded write to r[0] its derivation (R44;
notes/assumptions/42.md). That the alignment trap carries the data address is the model's reading of R682 (48.md). -/
def Obligations.SparcLoad : Prop :=
  ∀ (s : State) (rs1 rd rs2 : BitVec 5) (simm : BitVec 13) (o : SparcOp2) (y : Word),
    (o, y) ∈ [(SparcOp2.reg rs2, s.sparc.reg rs2), (.imm simm, simm.signExtend 32)] →
    let p : SparcState := s.sparc
    let ea : Word := p.reg rs1 + y
    let i : Instr := .sparcLd rs1 o rd
    (ea.toNat % 4 = 0 → ¬ InRegion p.params.dae ea.toNat → SparcCompletes i s fun q =>
      q.reg rd = (if rd = 0 then 0 else Memory.read .big top32 32 p.mem ea.toNat) ∧ SparcState.Keeps [rd] p q ∧
      SparcState.Advances p q ∧ q.psr = p.psr) ∧
    (ea.toNat % 4 ≠ 0 → Raises i s (.sparcNotAligned (some ea))) ∧
    (ea.toNat % 4 = 0 → InRegion p.params.dae ea.toNat → Raises i s (.sparcDataAccess ea))

/-! ### P5 -/

/-- ADDIU, ORI, ADDU, SLTU, move, both li, EXT and INS: the result (GPR[0] stays zero), in and outside a delay slot;
EXT and INS bit by bit, their Reserved Instruction before Release 2, and the refused ranges. That a write to GPR[0] is
discarded is supplied by the spec (R52, notes/assumptions/42.md). That move is the word of addu (37.md) and that
Reserved Instruction comes before the ranges (28.md) are the model's reading. -/
def Obligations.MipsArithmetic : Prop :=
  ∀ (s : State) (rt rs rd hi lo : BitVec 5) (imm : BitVec 16),
    let p : MipsState := s.mips
    let x : Word := p.reg rs
    let gives (i : Instr) (d : BitVec 5) (v : Word) : Prop := MipsCompletes i s fun q =>
      q.reg d = (if d = 0 then 0 else v) ∧ MipsState.Keeps [d] p q ∧ MipsState.Advances p q
    gives (.mipsAddiu rt rs imm) rt (x + imm.signExtend 32) ∧ gives (.mipsOri rt rs imm) rt (x ||| imm.setWidth 32) ∧
    gives (.mipsAddu rd rs rt) rd (x + p.reg rt) ∧
    gives (.mipsSltu rd rs rt) rd (if x.toNat < (p.reg rt).toNat then 1 else 0) ∧ gives (.mipsMove rd rs) rd x ∧
    gives (.mipsLiAddiu rt imm) rt (imm.signExtend 32) ∧ gives (.mipsLiOri rt imm) rt (imm.setWidth 32) ∧
    (p.params.release ≠ .r1 → lo.toNat + hi.toNat ≤ 31 → ∀ v : Word,
      (∀ k, k < 32 → v.getLsbD k = (decide (k ≤ hi.toNat) && x.getLsbD (k + lo.toNat))) →
      gives (.mipsExt rt rs hi lo) rt v) ∧
    (p.params.release ≠ .r1 → lo.toNat ≤ hi.toNat → ∀ v : Word,
      (∀ k, k < 32 → v.getLsbD k =
        if lo.toNat ≤ k ∧ k ≤ hi.toNat then x.getLsbD (k - lo.toNat) else (p.reg rt).getLsbD k) →
      gives (.mipsIns rt rs hi lo) rt v) ∧
    (p.params.release ≠ .r1 → 31 < lo.toNat + hi.toNat → exec (.mipsExt rt rs hi lo) s = .refused .mipsExtRange) ∧
    (p.params.release ≠ .r1 → hi.toNat < lo.toNat → exec (.mipsIns rt rs hi lo) s = .refused .mipsInsRange) ∧
    (p.params.release = .r1 →
      Raises (.mipsExt rt rs hi lo) s .mipsReserved ∧ Raises (.mipsIns rt rs hi lo) s .mipsReserved)

/-- LW: alignment first, then the translation's answer, then the word; with no translation the address itself. The
order of the checks is the spec's derivation (R533, D5; notes/assumptions/42.md). That a misaligned load of Release 6
is read from the translation of its first byte is the model's choice (29.md), where R118 writes the untranslated
address. That the Address Error carries the data address is the model's reading of R682 (48.md). -/
def Obligations.MipsLoad : Prop :=
  ∀ (s : State) (rt base : BitVec 5) (off : BitVec 16) (pa : Word) (e : Exception),
    let p : MipsState := s.mips
    let va : Word := off.signExtend 32 + p.reg base
    let i : Instr := .mipsLw rt off base
    let misaligned : Prop :=
      va.toNat % 4 ≠ 0 ∧ (p.params.release ≠ .r6 ∨ p.params.misalign = .addressError)
    (¬ misaligned → mipsTranslate p.params.xlate va = .ok pa → MipsCompletes i s fun q =>
      q.reg rt = (if rt = 0 then 0 else Memory.read p.params.order top32 32 p.mem pa.toNat) ∧
      MipsState.Keeps [rt] p q ∧ MipsState.Advances p q) ∧
    (misaligned → Raises i s (.mipsAddressError (some va))) ∧
    (¬ misaligned → mipsTranslate p.params.xlate va = .error (.raises e) → Raises i s e) ∧
    (p.params.xlate = [] → mipsTranslate p.params.xlate va = .ok va)

/-- BNE and JR outside a delay slot leave the target pending and go to the delay slot; in one they raise Reserved
Instruction in Release 6 and are refused before; each JR word belongs to its releases. Which release each JR word
belongs to, and that it is looked at first, is notes/assumptions/28.md. -/
def Obligations.MipsBranches : Prop :=
  ∀ (s : State) (rs rt : BitVec 5) (off : BitVec 16) (i : Instr) (pending : MipsPending),
    let p : MipsState := s.mips
    let after : Word := if p.reg rs = p.reg rt then p.pc + 8 else p.pc + 4 + (off ++ 0#2).signExtend 32
    let jump : MipsPending :=
      if p.params.config3ISA = 0 ∧ p.params.config1CA = 0 then { target := p.reg rs, isa := none }
      else { target := (p.reg rs).extractLsb' 1 31 ++ 0#1, isa := some ((p.reg rs).extractLsb' 0 1) }
    let known : Prop := (i, pending) = (Instr.mipsBne rs rt off, { target := after, isa := none }) ∨
      p.params.release ≠ .r6 ∧ (i, pending) = (.mipsJrPre rs, jump) ∨
      p.params.release = .r6 ∧ (i, pending) = (.mipsJrR6 rs, jump)
    (known → p.delayed = none → MipsCompletes i s fun q =>
      q.pc = p.pc + 4 ∧ q.delayed = some pending ∧ q.isaMode = p.isaMode ∧ MipsState.Keeps [] p q) ∧
    (known → p.delayed ≠ none → p.params.release = .r6 → Raises i s .mipsReserved) ∧
    (known → p.delayed ≠ none → p.params.release ≠ .r6 → exec i s = .refused .mipsCtiInSlot) ∧
    (p.params.release = .r6 → Raises (.mipsJrPre rs) s .mipsReserved) ∧
    (p.params.release ≠ .r6 → exec (.mipsJrR6 rs) s = .refused .mipsJalr)

/-! ### P6 -/

/-- add, addi, or, ori, the four compares, lui, neg, not, li and nop, at XLEN bits. That a write to x[0] is discarded
is the spec's derivation (R57, notes/assumptions/42.md), that li is one addi its expansion for a 12-bit value
(R648). -/
def Obligations.RvIntegers : Prop :=
  ∀ (s : State) (rd rs1 rs2 : BitVec 5) (imm : BitVec 12) (up : BitVec 20),
    let p : RvState := s.rv
    let x : BitVec p.xlen := p.reg p.xlen rs1
    let y : BitVec p.xlen := p.reg p.xlen rs2
    let z : BitVec p.xlen := imm.signExtend p.xlen
    let gives (i : Instr) (v : BitVec p.xlen) : Prop :=
      RvCompletes i s fun q => RvState.Gets rd p v q ∧ q.pc = p.cut (p.pc + 4)
    gives (.rvAdd rd rs1 rs2) (x + y) ∧ gives (.rvAddi rd rs1 imm) (x + z) ∧ gives (.rvOr rd rs1 rs2) (x ||| y) ∧
    gives (.rvOri rd rs1 imm) (x ||| z) ∧ gives (.rvSlt rd rs1 rs2) (if x.toInt < y.toInt then 1 else 0) ∧
    gives (.rvSlti rd rs1 imm) (if x.toInt < z.toInt then 1 else 0) ∧
    gives (.rvSltu rd rs1 rs2) (if x.toNat < y.toNat then 1 else 0) ∧
    gives (.rvSltiu rd rs1 imm) (if x.toNat < z.toNat then 1 else 0) ∧
    gives (.rvLui rd up) ((up ++ 0#12).signExtend p.xlen) ∧ gives (.rvNeg rd rs2) (0 - y) ∧
    gives (.rvNot rd rs1) (x ^^^ BitVec.allOnes p.xlen) ∧ gives (.rvLi rd imm) z ∧
    RvCompletes .rvNop s fun q => RvState.Keeps [] p q ∧ Memory.Same p.mem q.mem ∧ q.cycle = p.cycle ∧
      q.reservation = p.reservation ∧ q.pc = p.cut (p.pc + 4)

/-- sll, srl, slli and srli: the amount is five bits of the register on RV32 and six on RV64; an immediate amount with
bit 5 set is an illegal instruction on RV32. That a write to x[0] is discarded is the spec's derivation (R57), the
name of the exception is supplied by it (R581, R720; notes/assumptions/42.md). -/
def Obligations.RvShifts : Prop :=
  ∀ (s : State) (rd rs1 rs2 : BitVec 5) (shamt : BitVec 6),
    let p : RvState := s.rv
    let x : Nat := (p.reg p.xlen rs1).toNat
    let amount : Nat := (p.reg p.xlen rs2).toNat % (if p.params.rv64 then 64 else 32)
    let gives (i : Instr) (v : Nat) : Prop :=
      RvCompletes i s fun q => RvState.Gets rd p (BitVec.ofNat p.xlen v) q ∧ q.pc = p.cut (p.pc + 4)
    gives (.rvSll rd rs1 rs2) (x * 2 ^ amount) ∧ gives (.rvSrl rd rs1 rs2) (x / 2 ^ amount) ∧
    (p.params.rv64 = true ∨ shamt.toNat < 32 →
      gives (.rvSlli rd rs1 shamt) (x * 2 ^ shamt.toNat) ∧ gives (.rvSrli rd rs1 shamt) (x / 2 ^ shamt.toNat)) ∧
    (p.params.rv64 = false → 32 ≤ shamt.toNat →
      Raises (.rvSlli rd rs1 shamt) s .rvIllegal ∧ Raises (.rvSrli rd rs1 shamt) s .rvIllegal)

/-- The word instructions of RV64: results of the low words, sign-extended; remainders truncated towards zero; illegal
shift amounts. A zero divisor is refused, which is the spec's decision D28 (notes/assumptions/42.md); where the model's
parameter `unsettled` completes it, the remainder is any value (the model's choice, 44.md and 30.md). -/
def Obligations.RvWords : Prop :=
  ∀ (s : State) (rd rs1 rs2 : BitVec 5) (imm : BitVec 12) (shamt : BitVec 6),
    let p : RvState := s.rv
    let a : Word := (p.reg 64 rs1).extractLsb' 0 32
    let b : Word := (p.reg 64 rs2).extractLsb' 0 32
    let gives (i : Instr) (v : Word) : Prop := RvCompletes i s fun q =>
      RvState.Gets rd p ((v.signExtend 64).setWidth p.xlen) q ∧ q.pc = p.cut (p.pc + 4)
    p.params.rv64 = true →
    gives (.rvAddiw rd rs1 imm) (a + imm.signExtend 32) ∧ gives (.rvAddw rd rs1 rs2) (a + b) ∧
    gives (.rvNegw rd rs2) (0 - b) ∧
    gives (.rvSllw rd rs1 rs2) (BitVec.ofNat 32 (a.toNat * 2 ^ (b.toNat % 32))) ∧
    gives (.rvSraw rd rs1 rs2) (BitVec.ofInt 32 (a.toInt / 2 ^ (b.toNat % 32))) ∧
    (shamt.toNat < 32 →
      gives (.rvSlliw rd rs1 shamt) (BitVec.ofNat 32 (a.toNat * 2 ^ shamt.toNat)) ∧
      gives (.rvSrliw rd rs1 shamt) (BitVec.ofNat 32 (a.toNat / 2 ^ shamt.toNat))) ∧
    (32 ≤ shamt.toNat →
      Raises (.rvSlliw rd rs1 shamt) s .rvIllegal ∧ Raises (.rvSrliw rd rs1 shamt) s .rvIllegal) ∧
    (p.params.extM = true → b ≠ 0 →
      gives (.rvRemw rd rs1 rs2) (BitVec.ofInt 32 (a.toInt.tmod b.toInt)) ∧
      gives (.rvRemuw rd rs1 rs2) (BitVec.ofNat 32 (a.toNat % b.toNat))) ∧
    (p.params.extM = true → b = 0 → p.params.unsettled = .refuse →
      exec (.rvRemw rd rs1 rs2) s = .refused .rvZeroDivisor ∧
      exec (.rvRemuw rd rs1 rs2) s = .refused .rvZeroDivisor) ∧
    (p.params.extM = true → b = 0 → p.params.unsettled = .complete →
      (∃ v, gives (.rvRemw rd rs1 rs2) v) ∧ ∃ v, gives (.rvRemuw rd rs1 rs2) v)

/-- Loads and stores at any alignment: what is loaded and how it is extended, what is stored and that no other byte
changes; the access fault. A store that overlaps the reservation is refused; access at any alignment and that refusal
are the spec's decisions D6 and D22 (notes/assumptions/42.md). Where the model's parameter `unsettled` completes such a
store, it may end the reservation (the model's choice, 44.md and 31.md). -/
def Obligations.RvLoadsStores : Prop :=
  ∀ (s : State) (rd rs1 rs2 : BitVec 5) (off : BitVec 12) (i : Instr) (w : Nat) (unsigned : Bool),
    let p : RvState := s.rv
    let a : Nat := (p.reg p.xlen rs1 + off.signExtend p.xlen).toNat
    ((i, w, unsigned) ∈ [(Instr.rvLh rd off rs1, 16, false), (.rvLw rd off rs1, 32, false),
        (.rvLhu rd off rs1, 16, true)] ∨
      p.params.rv64 = true ∧ (i, w, unsigned) ∈ [(Instr.rvLd rd off rs1, 64, true), (.rvLwu rd off rs1, 32, true)] →
      (RvState.Allows p .load a (w / 8) → RvCompletes i s fun q =>
        RvState.Gets rd p (if unsigned then (Memory.read .little p.top w p.mem a).setWidth p.xlen
          else (Memory.read .little p.top w p.mem a).signExtend p.xlen) q ∧ q.pc = p.cut (p.pc + 4)) ∧
      (¬ RvState.Allows p .load a (w / 8) → Raises i s (.rvAccessFault .load a))) ∧
    ((i, w) ∈ [(Instr.rvSb rs2 off rs1, 8), (.rvSh rs2 off rs1, 16), (.rvSw rs2 off rs1, 32)] →
      (p.Settled a (w / 8) → Memory.wf p.top p.mem → RvState.Allows p .store a (w / 8) → RvCompletes i s fun q =>
        Memory.Stored .little p.top p.mem q.mem a (p.reg w rs2) ∧ RvState.Keeps [] p q ∧ q.cycle = p.cycle ∧
        (q.reservation = p.reservation ∨ q.reservation = none) ∧
        (p.Disjoint a (w / 8) → q.reservation = p.reservation) ∧ q.pc = p.cut (p.pc + 4)) ∧
      (p.Settled a (w / 8) → ¬ RvState.Allows p .store a (w / 8) → Raises i s (.rvAccessFault .store a)) ∧
      (¬ p.Settled a (w / 8) → exec i s = .refused .rvReservedStore))

/-- bne, bnez and ret: the target, no delay slot, no register written; a misaligned target is refused (the spec's
decision D25). -/
def Obligations.RvControl : Prop :=
  ∀ (s : State) (rs1 rs2 : BitVec 5) (off : BitVec 12) (i : Instr) (differ : Prop),
    let p : RvState := s.rv
    let target : DWord := p.cut (p.pc + (off ++ 0#1).signExtend 64)
    let back : DWord := (p.reg p.xlen 1).setWidth 64
    let goes (pc : DWord) (q : RvState) : Prop :=
      q.pc = pc ∧ RvState.Keeps [] p q ∧ Memory.Same p.mem q.mem ∧ q.cycle = p.cycle ∧ q.reservation = p.reservation
    ((i, differ) ∈ [(Instr.rvBne rs1 rs2 off, p.reg p.xlen rs1 ≠ p.reg p.xlen rs2),
        (.rvBnez rs1 off, p.reg p.xlen rs1 ≠ 0)] →
      (¬ differ → RvCompletes i s (goes (p.cut (p.pc + 4)))) ∧
      (differ → p.targetOk target = true → RvCompletes i s (goes target)) ∧
      (differ → p.targetOk target = false → exec i s = .refused .rvMisalignedTarget)) ∧
    (p.targetOk back = true → RvCompletes .rvRet s (goes back)) ∧
    (p.targetOk back = false → exec .rvRet s = .refused .rvMisalignedTarget) ∧
    ∀ v : DWord, p.targetOk v = true ↔ v.toNat % (if p.params.extC then 2 else 4) = 0

/-- lr.w, lr.d, sc.d, amoadd.d: the reservation set, held and ended; the store, the sum; the access faults; misaligned
atomics refused. An sc.d that meets no reservation writes a nonzero code and stores nothing, whatever the address; one
that may fail does either. An sc.d with a word reservation inside its doubleword and an amoadd.d that overlaps the
reservation are refused. The alignment rule, those refusals and the end of a reservation are the spec's decisions D6
and D22 (notes/assumptions/42.md). That amoadd.d reports the access fault of its load before it is refused over the
reservation is the model's choice (41.md). Where the model's parameter `unsettled` completes the two, the sc.d does
either and the amoadd.d may end the reservation (the model's choice, 44.md, 32.md and 31.md). -/
def Obligations.RvAtomics : Prop :=
  ∀ (s : State) (aq rl : Bool) (rd rs1 rs2 : BitVec 5) (i : Instr) (w : Nat),
    let p : RvState := s.rv
    let a : Nat := (p.reg p.xlen rs1).toNat
    let sc : Instr := .rvScD aq rl rd rs2 rs1
    let amo : Instr := .rvAmoaddD aq rl rd rs2 rs1
    let m : DWord := Memory.read .little p.top 64 p.mem a
    let word : Prop := p.reservation = some ⟨a, 4⟩ ∨ p.reservation = some ⟨a + 4, 4⟩
    let dest (v : BitVec p.xlen) (q : RvState) : Prop :=
      q.reg p.xlen rd = (if rd = 0 then 0 else v) ∧ RvState.Keeps [rd] p q ∧ q.cycle = p.cycle ∧
      q.pc = p.cut (p.pc + 4)
    let succeeds (q : RvState) : Prop :=
      dest 0 q ∧ Memory.Stored .little p.top p.mem q.mem a (p.reg 64 rs2) ∧ q.reservation = none
    let fails (q : RvState) : Prop :=
      (∃ v, v ≠ 0 ∧ dest v q) ∧ Memory.Same p.mem q.mem ∧ q.reservation = none
    p.params.extA = true → Memory.wf p.top p.mem →
    ((i, w) = (Instr.rvLrW aq rl rd rs1, 32) ∨ p.params.rv64 = true ∧ (i, w) = (.rvLrD aq rl rd rs1, 64) →
      (a % (w / 8) ≠ 0 → exec i s = .refused .rvMisalignedAtomic) ∧
      (a % (w / 8) = 0 → RvState.Allows p .load a (w / 8) → RvCompletes i s fun q =>
        dest ((Memory.read .little p.top w p.mem a).signExtend p.xlen) q ∧ Memory.Same p.mem q.mem ∧
        q.reservation = some ⟨a, w / 8⟩) ∧
      (a % (w / 8) = 0 → ¬ RvState.Allows p .load a (w / 8) → Raises i s (.rvAccessFault .load a))) ∧
    (p.params.rv64 = true → a % 8 ≠ 0 →
      exec sc s = .refused .rvMisalignedAtomic ∧ exec amo s = .refused .rvMisalignedAtomic) ∧
    (p.params.rv64 = true → a % 8 = 0 →
      (p.reservation = some ⟨a, 8⟩ → RvState.Allows p .store a 8 → p.params.scMayFail = false →
        RvCompletes sc s succeeds) ∧
      (p.reservation = some ⟨a, 8⟩ → RvState.Allows p .store a 8 → p.params.scMayFail = true →
        RvCompletes sc s fun q => succeeds q ∨ fails q) ∧
      (p.reservation = some ⟨a, 8⟩ → ¬ RvState.Allows p .store a 8 → p.params.scMayFail = false →
        Raises sc s (.rvAccessFault .store a)) ∧
      (p.reservation = some ⟨a, 8⟩ → ¬ RvState.Allows p .store a 8 → p.params.scMayFail = true →
        Raises sc s (.rvAccessFault .store a) ∨ RvCompletes sc s fails) ∧
      (p.reservation ≠ some ⟨a, 8⟩ → ¬ word → RvCompletes sc s fails) ∧
      (word → p.params.unsettled = .refuse → exec sc s = .refused .rvWordReservation) ∧
      (word → p.params.unsettled = .complete → RvState.Allows p .store a 8 →
        RvCompletes sc s fun q => succeeds q ∨ fails q) ∧
      (word → p.params.unsettled = .complete → ¬ RvState.Allows p .store a 8 →
        Raises sc s (.rvAccessFault .store a) ∨ RvCompletes sc s fails)) ∧
    (p.params.rv64 = true → a % 8 = 0 →
      (RvState.Allows p .load a 8 → p.Settled a 8 → RvState.Allows p .store a 8 → RvCompletes amo s fun q =>
        dest (m.setWidth p.xlen) q ∧ Memory.Stored .little p.top p.mem q.mem a (m + p.reg 64 rs2) ∧
        (q.reservation = p.reservation ∨ q.reservation = none) ∧
        (p.Disjoint a 8 → q.reservation = p.reservation)) ∧
      (¬ RvState.Allows p .load a 8 → Raises amo s (.rvAccessFault .load a)) ∧
      (RvState.Allows p .load a 8 → ¬ p.Settled a 8 → exec amo s = .refused .rvReservedStore) ∧
      (RvState.Allows p .load a 8 → p.Settled a 8 → ¬ RvState.Allows p .store a 8 →
        Raises amo s (.rvAccessFault .store a)))

/-- The four compressed instructions as their expansions with a pc two bytes on; rdcycle as any value; and the words
of an XLEN or extension that is not configured, refused. The value of rdcycle is the spec's decision D26
(notes/assumptions/42.md); that an instruction not configured is refused so is notes/assumptions/33.md. -/
def Obligations.RvCompressed : Prop :=
  ∀ (s : State) (rd rs1 rs2 : BitVec 5) (rd3 : BitVec 3) (i6 : BitVec 6) (u8 : BitVec 8) (o : BitVec 12)
    (sh : BitVec 6) (aq rl : Bool) (i : Instr),
    let p : RvState := s.rv
    let gives (i : Instr) (rd : BitVec 5) (v : BitVec p.xlen) : Prop :=
      RvCompletes i s fun q => RvState.Gets rd p v q ∧ q.pc = p.cut (p.pc + 2)
    (p.params.extC = true →
      gives (.rvCAdd rd rs2) rd (p.reg p.xlen rd + p.reg p.xlen rs2) ∧
      gives (.rvCAddi rd i6) rd (p.reg p.xlen rd + i6.signExtend p.xlen) ∧
      gives (.rvCAddi16sp i6) 2 (p.reg p.xlen 2 + (i6 ++ 0#4).signExtend p.xlen) ∧
      gives (.rvCAddi4spn rd3 u8) (8#5 + rd3.setWidth 5) (p.reg p.xlen 2 + BitVec.ofNat p.xlen (4 * u8.toNat))) ∧
    (RvCompletes (.rvRdcycle rd) s fun q => (∃ v : BitVec p.xlen, q.reg p.xlen rd = if rd = 0 then 0 else v) ∧
      RvState.Keeps [rd] p q ∧ Memory.Same p.mem q.mem ∧ q.reservation = p.reservation ∧
      q.pc = p.cut (p.pc + 4)) ∧
    (p.params.rv64 = false ∧ i ∈ [Instr.rvLd rd o rs1, .rvLwu rd o rs1, .rvAddiw rd rs1 o, .rvSlliw rd rs1 sh,
        .rvSrliw rd rs1 sh, .rvAddw rd rs1 rs2, .rvSllw rd rs1 rs2, .rvSraw rd rs1 rs2, .rvNegw rd rs2,
        .rvRemw rd rs1 rs2, .rvRemuw rd rs1 rs2, .rvLrD aq rl rd rs1, .rvScD aq rl rd rs2 rs1,
        .rvAmoaddD aq rl rd rs2 rs1] ∨
      p.params.extM = false ∧ i ∈ [Instr.rvRemw rd rs1 rs2, .rvRemuw rd rs1 rs2] ∨
      p.params.extA = false ∧ i ∈ [Instr.rvLrW aq rl rd rs1, .rvLrD aq rl rd rs1, .rvScD aq rl rd rs2 rs1,
        .rvAmoaddD aq rl rd rs2 rs1] ∨
      p.params.extC = false ∧ i ∈ [Instr.rvCAdd rd rs2, .rvCAddi rd i6, .rvCAddi16sp i6, .rvCAddi4spn rd3 u8] ∨
      p.params.privM = false ∧ i = .rvMret ∨ p.params.privS = false ∧ i = .rvSret →
      exec i s = .refused .rvNotConfigured)

/-- mret and sret: the return from an exception, every new value from the state before; refused in a mode that may not
return so, with an MPP that names no mode, and at a misaligned target. The refusals are the spec's decisions D25 and
D27 (notes/assumptions/42.md). That supervisor mode is supported when priv-S is configured is the model's choice
(47.md). -/
def Obligations.RvReturns : Prop :=
  ∀ (s : State) (mode : RvPriv),
    let p : RvState := s.rv
    let rest (q : RvState) : Prop :=
      q.mepc = p.mepc ∧ q.sepc = p.sepc ∧ (∀ n, q.reg p.xlen n = p.reg p.xlen n) ∧ Memory.Same p.mem q.mem ∧
      q.cycle = p.cycle ∧ q.reservation = p.reservation ∧ q.params = p.params
    (p.params.privM = true → p.priv = .machine →
      ((p.mpp, mode) = (3#2, .machine) ∨ p.params.privS = true ∧ (p.mpp, mode) = (1#2, .supervisor) ∨
        p.params.userMode = true ∧ (p.mpp, mode) = (0#2, .user)) →
      (p.targetOk p.mepc = true → RvCompletes .rvMret s fun q =>
        q.pc = p.cut p.mepc ∧ q.priv = mode ∧ q.mie = p.mpie ∧ q.mpie = true ∧
        q.mpp = (if p.params.userMode then 0 else p.mpp) ∧ q.sie = p.sie ∧ q.spie = p.spie ∧ q.spp = p.spp ∧
        rest q) ∧
      (p.targetOk p.mepc = false → exec .rvMret s = .refused .rvMisalignedTarget)) ∧
    (p.params.privS = true → p.priv ≠ .user →
      (p.targetOk p.sepc = true → RvCompletes .rvSret s fun q =>
        q.pc = p.cut p.sepc ∧ q.priv = (if p.spp = 1 then .supervisor else .user) ∧ q.sie = p.spie ∧ q.spie = true ∧
        q.spp = 0 ∧ q.mie = p.mie ∧ q.mpie = p.mpie ∧ q.mpp = p.mpp ∧ rest q) ∧
      (p.targetOk p.sepc = false → exec .rvSret s = .refused .rvMisalignedTarget)) ∧
    (p.params.privM = true → p.priv ≠ .machine → exec .rvMret s = .refused .rvPrivilege) ∧
    (p.params.privS = true → p.priv = .user → exec .rvSret s = .refused .rvPrivilege) ∧
    (p.params.privM = true → p.priv = .machine →
      (p.mpp = 2 ∨ p.params.privS = false ∧ p.mpp = 1 ∨ p.params.userMode = false ∧ p.mpp = 0) →
      exec .rvMret s = .refused .rvBadMpp)
end

