-- ==== Sys2Proof/Laws/Decode.lean ====
section
/-! SUPPORT. What the shared parts of the decoder and the encoder do: fields of an assembled word, and for each
operand form of P1 that its decoder undoes its encoder and that what it decodes is what the encoder writes. -/

namespace Sys2Proof

/-! ### Fields of a word -/

/-- The width of fields side by side. -/
def fieldsWidth : List (Nat × Nat) → Nat
  | [] => 0
  | (k, _) :: t => k + fieldsWidth t

/-- Every field's value fits its width. -/
def FieldsFit (l : List (Nat × Nat)) : Prop := ∀ e ∈ l, e.2 < 2 ^ e.1

theorem fieldsFit_nil : FieldsFit [] := fun _ h => absurd h (List.not_mem_nil)

theorem fieldsFit_fd (v : BitVec k) {l : List (Nat × Nat)} (h : FieldsFit l) : FieldsFit (fd v :: l) := by
  intro e he
  rcases List.mem_cons.1 he with rfl | he
  · exact v.isLt
  · exact h e he

theorem fieldsFit_fdb (b : Bool) {l : List (Nat × Nat)} (h : FieldsFit l) : FieldsFit (fdb b :: l) := by
  intro e he
  rcases List.mem_cons.1 he with rfl | he
  · exact Bool.toNat_lt b
  · exact h e he

theorem assemble_eq (acc : Nat) (l : List (Nat × Nat)) : assemble acc l = acc * 2 ^ fieldsWidth l + assemble 0 l := by
  induction l generalizing acc with
  | nil => simp [assemble, fieldsWidth]
  | cons e t ih =>
    obtain ⟨k, v⟩ := e
    simp only [assemble, fieldsWidth]
    rw [ih, ih (0 * 2 ^ k + v), Nat.pow_add]
    ring

theorem assemble_append (l m : List (Nat × Nat)) : assemble 0 (l ++ m) = assemble 0 l * 2 ^ fieldsWidth m + assemble 0 m := by
  have : ∀ acc, assemble acc (l ++ m) = assemble (assemble acc l) m := by
    induction l with
    | nil => intro acc; rfl
    | cons e t ih => intro acc; exact ih _
  rw [this, assemble_eq]

theorem assemble_lt {l : List (Nat × Nat)} (h : FieldsFit l) : assemble 0 l < 2 ^ fieldsWidth l := by
  induction l with
  | nil => simp [assemble, fieldsWidth]
  | cons e t ih =>
    obtain ⟨k, v⟩ := e
    have hv : v < 2 ^ k := h (k, v) (List.mem_cons_self ..)
    have ht := ih fun e he => h e (List.mem_cons_of_mem _ he)
    simp only [assemble, fieldsWidth, Nat.zero_mul, Nat.zero_add]
    rw [assemble_eq, Nat.pow_add]
    calc v * 2 ^ fieldsWidth t + assemble 0 t < v * 2 ^ fieldsWidth t + 2 ^ fieldsWidth t := by omega
      _ = (v + 1) * 2 ^ fieldsWidth t := by ring
      _ ≤ 2 ^ k * 2 ^ fieldsWidth t := Nat.mul_le_mul_right _ hv

/-- A field by the numbers. -/
theorem fld_eq_of_toNat {w : BitVec n} {lo k : Nat} {v : BitVec k} (h : w.toNat / 2 ^ lo % 2 ^ k = v.toNat) :
    fld w lo k = v := by
  apply BitVec.eq_of_toNat_eq
  rw [fld, BitVec.extractLsb'_toNat, Nat.shiftRight_eq_div_pow, h]

theorem toNat_fld (w : BitVec n) (lo k : Nat) : (fld w lo k).toNat = w.toNat / 2 ^ lo % 2 ^ k := by
  rw [fld, BitVec.extractLsb'_toNat, Nat.shiftRight_eq_div_pow]

theorem toNat_bitsOf (n : Nat) (l : List (Nat × Nat)) : (bitsOf n l).toNat = assemble 0 l % 2 ^ n :=
  BitVec.toNat_ofNat ..

/-- A field of an assembled word: `b` are the fields to its right. -/
theorem fld_bitsOf (n : Nat) (a b : List (Nat × Nat)) (v : BitVec k) (hb : FieldsFit b) (hn : fieldsWidth b + k ≤ n) :
    fld (bitsOf n (a ++ fd v :: b)) (fieldsWidth b) k = v := by
  apply fld_eq_of_toNat
  have e : assemble 0 (a ++ fd v :: b) =
      assemble 0 a * 2 ^ (k + fieldsWidth b) + (v.toNat * 2 ^ fieldsWidth b + assemble 0 b) := by
    rw [assemble_append]
    simp only [fieldsWidth, fd, assemble, Nat.zero_mul, Nat.zero_add]
    rw [assemble_eq v.toNat b]
    try ring
  rw [toNat_bitsOf, e]
  have hlt := assemble_lt hb
  have hv := v.isLt
  obtain ⟨d, rfl⟩ : ∃ d, n = fieldsWidth b + k + d := ⟨n - (fieldsWidth b + k), by omega⟩
  generalize fieldsWidth b = w at *
  generalize assemble 0 b = x at *
  generalize assemble 0 a = y at *
  generalize v.toNat = z at *
  rw [show 2 ^ (w + k + d) = 2 ^ w * (2 ^ k * 2 ^ d) by rw [Nat.pow_add, Nat.pow_add, Nat.mul_assoc],
    show y * 2 ^ (k + w) + (z * 2 ^ w + x) = 2 ^ w * (y * 2 ^ k + z) + x by rw [Nat.pow_add]; ring,
    Nat.mod_mul_right_div_self, Nat.mul_add_div (Nat.two_pow_pos w), Nat.div_eq_of_lt hlt, Nat.add_zero,
    Nat.mod_mul_right_mod, Nat.mul_add_mod', Nat.mod_eq_of_lt hv]

/-- A one-bit field of an assembled word. -/
theorem bitAt_bitsOf (n : Nat) (a b : List (Nat × Nat)) (v : Bool) (hb : FieldsFit b) (hn : fieldsWidth b + 1 ≤ n) :
    bitAt (bitsOf n (a ++ fdb v :: b)) (fieldsWidth b) = v := by
  have h := fld_bitsOf n a b (BitVec.ofBool v) hb hn
  rw [show fd (BitVec.ofBool v) = fdb v by cases v <;> rfl] at h
  have h0 : (fld (bitsOf n (a ++ fdb v :: b)) (fieldsWidth b) 1).getLsbD 0 = (BitVec.ofBool v).getLsbD 0 := by rw [h]
  rw [fld, BitVec.getLsbD_extractLsb'] at h0
  unfold bitAt
  cases v <;> simpa using h0

/-! ### P1: immediates -/

@[simp] theorem take8_cons (b : Byte) (t : List Byte) (k : BitVec 8 → List Byte → Decoded α) :
    take8 (b :: t) k = k b t := rfl

theorem take16_bytes16 (v : BitVec 16) (t : List Byte) (k : BitVec 16 → List Byte → Decoded α) :
    take16 (bytes16 v ++ t) k = k v t := by
  show k (bitsOf 16 [fd (fld v 8 8), fd (fld v 0 8)]) t = _
  congr 1
  apply BitVec.eq_of_toNat_eq
  rw [toNat_bitsOf]
  simp only [assemble, fd, toNat_fld]
  have := v.isLt
  omega

theorem take32_bytes32 (v : BitVec 32) (t : List Byte) (k : BitVec 32 → List Byte → Decoded α) :
    take32 (bytes32 v ++ t) k = k v t := by
  show k (bitsOf 32 [fd (fld v 24 8), fd (fld v 16 8), fd (fld v 8 8), fd (fld v 0 8)]) t = _
  congr 1
  apply BitVec.eq_of_toNat_eq
  rw [toNat_bitsOf]
  simp only [assemble, fd, toNat_fld]
  have := v.isLt
  omega

theorem takeBySize_bytesBySize (s : Bool) (v : BitVec 32) (t : List Byte) (k : BitVec 32 → List Byte → Decoded α)
    (h : fitsSize s v = true) : takeBySize s (bytesBySize s v ++ t) k = k v t := by
  cases s
  · show take16 (bytes16 (fld v 0 16) ++ t) (fun v t => k (v.setWidth 32) t) = _
    rw [take16_bytes16]
    congr 1
    have h16 : v.extractLsb' 16 16 = 0#16 := by simpa [fitsSize] using h
    have : (v.extractLsb' 16 16).toNat = 0 := by rw [h16]; rfl
    rw [BitVec.extractLsb'_toNat, Nat.shiftRight_eq_div_pow] at this
    apply BitVec.eq_of_toNat_eq
    have hv := v.isLt
    rw [BitVec.toNat_setWidth, toNat_fld]
    omega
  · exact take32_bytes32 v t k

theorem take8_ok {l : List Byte} {k : BitVec 8 → List Byte → Decoded α} {x : α} (h : take8 l k = .ok x) :
    ∃ b t, l = b :: t ∧ k b t = .ok x := by
  cases l with
  | nil => cases h
  | cons b t => exact ⟨b, t, rfl, h⟩

theorem take16_ok {l : List Byte} {k : BitVec 16 → List Byte → Decoded α} {x : α} (h : take16 l k = .ok x) :
    ∃ v t, l = bytes16 v ++ t ∧ k v t = .ok x := by
  match l, h with
  | b0 :: b1 :: t, h =>
    refine ⟨_, t, ?_, h⟩
    have e0 : fld (bitsOf 16 [fd b1, fd b0]) 0 8 = b0 := fld_bitsOf 16 [fd b1] [] b0 fieldsFit_nil (by decide)
    have e1 : fld (bitsOf 16 [fd b1, fd b0]) 8 8 = b1 :=
      fld_bitsOf 16 [] [fd b0] b1 (fieldsFit_fd _ fieldsFit_nil) (by simp [fieldsWidth, fd])
    simp only [bytes16, e0, e1, List.cons_append, List.nil_append]

theorem take32_ok {l : List Byte} {k : BitVec 32 → List Byte → Decoded α} {x : α} (h : take32 l k = .ok x) :
    ∃ v t, l = bytes32 v ++ t ∧ k v t = .ok x := by
  match l, h with
  | b0 :: b1 :: b2 :: b3 :: t, h =>
    refine ⟨_, t, ?_, h⟩
    have f0 := fieldsFit_nil
    have e0 : fld (bitsOf 32 [fd b3, fd b2, fd b1, fd b0]) 0 8 = b0 :=
      fld_bitsOf 32 [fd b3, fd b2, fd b1] [] b0 f0 (by decide)
    have e1 : fld (bitsOf 32 [fd b3, fd b2, fd b1, fd b0]) 8 8 = b1 :=
      fld_bitsOf 32 [fd b3, fd b2] [fd b0] b1 (fieldsFit_fd _ f0) (by simp [fieldsWidth, fd])
    have e2 : fld (bitsOf 32 [fd b3, fd b2, fd b1, fd b0]) 16 8 = b2 :=
      fld_bitsOf 32 [fd b3] [fd b1, fd b0] b2 (fieldsFit_fd _ (fieldsFit_fd _ f0)) (by simp [fieldsWidth, fd])
    have e3 : fld (bitsOf 32 [fd b3, fd b2, fd b1, fd b0]) 24 8 = b3 :=
      fld_bitsOf 32 [] [fd b2, fd b1, fd b0] b3 (fieldsFit_fd _ (fieldsFit_fd _ (fieldsFit_fd _ f0))) (by simp [fieldsWidth, fd])
    simp only [bytes32, e0, e1, e2, e3, List.cons_append, List.nil_append]

theorem takeBySize_ok {s : Bool} {l : List Byte} {k : BitVec 32 → List Byte → Decoded α} {x : α}
    (h : takeBySize s l k = .ok x) : ∃ v t, fitsSize s v = true ∧ l = bytesBySize s v ++ t ∧ k v t = .ok x := by
  cases s
  · obtain ⟨v, t, rfl, hk⟩ := take16_ok (show take16 l (fun v t => k (v.setWidth 32) t) = .ok x from h)
    refine ⟨_, t, ?_, ?_, hk⟩
    · have := v.isLt
      have : (v.setWidth 32).extractLsb' 16 16 = 0#16 := by
        apply BitVec.eq_of_toNat_eq
        rw [BitVec.extractLsb'_toNat, Nat.shiftRight_eq_div_pow, BitVec.toNat_setWidth]
        simp; omega
      simp [fitsSize, this]
    · have : fld (v.setWidth 32) 0 16 = v := by
        apply BitVec.eq_of_toNat_eq
        rw [toNat_fld, BitVec.toNat_setWidth]
        have := v.isLt
        omega
      show _ = bytes16 (fld (v.setWidth 32) 0 16) ++ t
      rw [this]
  · obtain ⟨v, t, hl, hk⟩ := take32_ok (show take32 l k = .ok x from h)
    exact ⟨v, t, rfl, hl, hk⟩

/-! ### P1: ModR/M -/

theorem fld_modrm (m : BitVec 2) (r n : BitVec 3) :
    fld (modrm m r n) 6 2 = m ∧ fld (modrm m r n) 3 3 = r ∧ fld (modrm m r n) 0 3 = n :=
  ⟨fld_bitsOf 8 [] [fd r, fd n] m (fieldsFit_fd _ (fieldsFit_fd _ fieldsFit_nil)) (by simp [fieldsWidth, fd]),
    fld_bitsOf 8 [fd m] [fd n] r (fieldsFit_fd _ fieldsFit_nil) (by simp [fieldsWidth, fd]),
    fld_bitsOf 8 [fd m, fd r] [] n fieldsFit_nil (by decide)⟩

theorem fld_sibByte (s : BitVec 2) (i b : BitVec 3) :
    fld (sibByte s i b) 6 2 = s ∧ fld (sibByte s i b) 3 3 = i ∧ fld (sibByte s i b) 0 3 = b := fld_modrm s i b

theorem modrm_fld (b : Byte) : modrm (fld b 6 2) (fld b 3 3) (fld b 0 3) = b := by
  apply BitVec.eq_of_toNat_eq
  rw [modrm, toNat_bitsOf]
  simp only [assemble, fd, toNat_fld]
  have := b.isLt
  omega

theorem sibByte_fld (b : Byte) : sibByte (fld b 6 2) (fld b 3 3) (fld b 0 3) = b := modrm_fld b

theorem takeDisp32_bytes (d : X86Disp32) (t : List Byte) (k : X86Disp32 → List Byte → Decoded α) :
    takeDisp32 d.mod (d.bytes ++ t) k = k d t := by
  cases d with
  | none => rfl
  | d8 v => rfl
  | d32 v => exact take32_bytes32 v t fun v t => k (.d32 v) t

theorem takeDisp16_bytes (d : X86Disp16) (t : List Byte) (k : X86Disp16 → List Byte → Decoded α) :
    takeDisp16 d.mod (d.bytes ++ t) k = k d t := by
  cases d with
  | none => rfl
  | d8 v => rfl
  | d16 v => exact take16_bytes16 v t fun v t => k (.d16 v) t

theorem X86Disp32.mod_ne (d : X86Disp32) : d.mod ≠ 3 ∧ (d.mod = 0 ↔ d = .none) := by
  cases d <;> simp [X86Disp32.mod]

theorem X86Disp16.mod_ne (d : X86Disp16) : d.mod ≠ 3 ∧ (d.mod = 0 ↔ d = .none) := by
  cases d <;> simp [X86Disp16.mod]

/-- The decoder of memory operands undoes their encoder (spec/30_encoding.md R154 to R156). -/
theorem takeRM_encodeMem (a : Bool) (r : BitVec 3) (m : X86Mem) (t : List Byte)
    (k : BitVec 3 → X86RM → List Byte → Decoded α) (h : m.wf a = true) :
    takeRM a (encodeMem r m ++ t) k = k r (.mem m) t := by
  have rm (d : BitVec 2) (n : BitVec 3) (l : List Byte) (hd : d ≠ 3) :
      takeRM a (modrm d r n :: l) k = takeMem a d n l fun m t => k r (.mem m) t := by
    obtain ⟨h1, h2, h3⟩ := fld_modrm d r n
    show (if fld (modrm d r n) 6 2 = 3#2 then _ else takeMem a (fld (modrm d r n) 6 2) (fld (modrm d r n) 0 3) l
      fun m t => k (fld (modrm d r n) 3 3) (.mem m) t) = _
    rw [h1, h2, h3, if_neg (show ¬ d = 3#2 from hd)]
  cases m with
  | disp32 v =>
    obtain rfl : a = true := by simpa [X86Mem.wf] using h
    show takeRM true (modrm 0 r 5 :: (bytes32 v ++ t)) k = _
    rw [rm 0 5 _ (by decide)]
    exact take32_bytes32 v t fun v t => k r (.mem (.disp32 v)) t
  | base32 n d =>
    simp only [X86Mem.wf, Bool.and_eq_true, Bool.or_eq_true, bne_iff_ne] at h
    obtain ⟨⟨rfl, h4⟩, h5⟩ := h
    show takeRM true (modrm d.mod r n :: (d.bytes ++ t)) k = _
    rw [rm d.mod n _ d.mod_ne.1]
    unfold takeMem
    rw [if_pos rfl, if_neg (show ¬ n = 4 from h4), if_neg, takeDisp32_bytes]
    rintro ⟨e, e5⟩
    rcases h5 with h5 | h5
    · exact h5 e5
    · exact h5 (d.mod_ne.2.1 e)
  | sib s i b d =>
    simp only [X86Mem.wf, Bool.and_eq_true, Bool.or_eq_true, bne_iff_ne] at h
    obtain ⟨rfl, h5⟩ := h
    obtain ⟨h1, h2, h3⟩ := fld_sibByte s i b
    show takeRM true (modrm d.mod r 4 :: sibByte s i b :: (d.bytes ++ t)) k = _
    rw [rm d.mod 4 _ d.mod_ne.1]
    unfold takeMem
    rw [if_pos rfl, if_pos rfl, take8_cons, h1, h2, h3, if_neg, takeDisp32_bytes]
    rintro ⟨e, e5⟩
    rcases h5 with h5 | h5
    · exact h5 e5
    · exact h5 (d.mod_ne.2.1 e)
  | sibNoBase s i v =>
    obtain rfl : a = true := by simpa [X86Mem.wf] using h
    obtain ⟨h1, h2, h3⟩ := fld_sibByte s i 5
    show takeRM true (modrm 0 r 4 :: sibByte s i 5 :: (bytes32 v ++ t)) k = _
    rw [rm 0 4 _ (by decide)]
    unfold takeMem
    rw [if_pos rfl, if_pos rfl, take8_cons, h1, h2, h3, if_pos ⟨rfl, rfl⟩, take32_bytes32]
  | disp16 v =>
    obtain rfl : a = false := by simpa [X86Mem.wf] using h
    show takeRM false (modrm 0 r 6 :: (bytes16 v ++ t)) k = _
    rw [rm 0 6 _ (by decide)]
    exact take16_bytes16 v t fun v t => k r (.mem (.disp16 v)) t
  | base16 n d =>
    simp only [X86Mem.wf, Bool.and_eq_true, Bool.or_eq_true, bne_iff_ne, Bool.not_eq_true'] at h
    obtain ⟨rfl, h6⟩ := h
    show takeRM false (modrm d.mod r n :: (d.bytes ++ t)) k = _
    rw [rm d.mod n _ d.mod_ne.1]
    unfold takeMem
    rw [if_neg (by decide), if_neg, takeDisp16_bytes]
    rintro ⟨e, e6⟩
    rcases h6 with h6 | h6
    · exact h6 e6
    · exact h6 (d.mod_ne.2.1 e)

/-- The decoder of r/m operands undoes their encoder. -/
theorem takeRM_encodeRM (a : Bool) (r : BitVec 3) (rm : X86RM) (t : List Byte)
    (k : BitVec 3 → X86RM → List Byte → Decoded α) (h : rm.wf a = true) :
    takeRM a (encodeRM r rm ++ t) k = k r rm t := by
  cases rm with
  | reg n =>
    obtain ⟨h1, h2, h3⟩ := fld_modrm 3 r n
    show (if fld (modrm 3 r n) 6 2 = 3#2 then k (fld (modrm 3 r n) 3 3) (.reg (fld (modrm 3 r n) 0 3)) t else _) = _
    rw [h1, h2, h3, if_pos (show (3 : BitVec 2) = 3#2 from rfl)]
  | mem m => exact takeRM_encodeMem a r m t k h

/-- The reg field of the first byte of an r/m operand. -/
theorem encodeRM_eq_cons (r : BitVec 3) (rm : X86RM) : ∃ b t, encodeRM r rm = b :: t ∧ fld b 3 3 = r := by
  cases rm with
  | reg n => exact ⟨_, _, rfl, (fld_modrm 3 r n).2.1⟩
  | mem m => cases m <;> exact ⟨_, _, rfl, (fld_modrm _ _ _).2.1⟩

/-- A listed `/digit` decodes as an r/m operand does. -/
theorem takeDigit_encodeRM (a : Bool) (listed : BitVec 3 → Bool) (r : BitVec 3) (rm : X86RM) (t : List Byte)
    (k : BitVec 3 → X86RM → List Byte → Decoded α) (h : rm.wf a = true) (hr : listed r = true) :
    takeDigit a listed (encodeRM r rm ++ t) k = k r rm t := by
  rw [← takeRM_encodeRM a r rm t k h]
  obtain ⟨b, u, e, hb⟩ := encodeRM_eq_cons r rm
  rw [e]
  show (if listed (fld b 3 3) = true then _ else _) = _
  rw [hb, if_pos hr]

theorem three_of {m : BitVec 2} (h3 : m ≠ 3) (h0 : ¬ m = 0) (h1 : ¬ m = 1) : 2 = m := by
  revert m; decide

theorem takeDisp32_ok {m : BitVec 2} {l : List Byte} {k : X86Disp32 → List Byte → Decoded α} {x : α} (hm : m ≠ 3)
    (h : takeDisp32 m l k = .ok x) : ∃ d t, d.mod = m ∧ l = d.bytes ++ t ∧ k d t = .ok x := by
  unfold takeDisp32 at h
  split at h
  · rename_i e; exact ⟨.none, l, e.symm, rfl, h⟩
  · split at h
    · rename_i e
      obtain ⟨b, t, rfl, hk⟩ := take8_ok h
      exact ⟨.d8 b, t, e.symm, rfl, hk⟩
    · obtain ⟨v, t, rfl, hk⟩ := take32_ok h
      refine ⟨.d32 v, t, ?_, rfl, hk⟩
      exact three_of hm ‹_› ‹_›

theorem takeDisp16_ok {m : BitVec 2} {l : List Byte} {k : X86Disp16 → List Byte → Decoded α} {x : α} (hm : m ≠ 3)
    (h : takeDisp16 m l k = .ok x) : ∃ d t, d.mod = m ∧ l = d.bytes ++ t ∧ k d t = .ok x := by
  unfold takeDisp16 at h
  split at h
  · rename_i e; exact ⟨.none, l, e.symm, rfl, h⟩
  · split at h
    · rename_i e
      obtain ⟨b, t, rfl, hk⟩ := take8_ok h
      exact ⟨.d8 b, t, e.symm, rfl, hk⟩
    · obtain ⟨v, t, rfl, hk⟩ := take16_ok h
      refine ⟨.d16 v, t, ?_, rfl, hk⟩
      exact three_of hm ‹_› ‹_›

/-- What the decoder of memory operands reads is what their encoder writes. -/
theorem takeMem_ok {a : Bool} {r : BitVec 3} {m : BitVec 2} {n : BitVec 3} {l : List Byte}
    {k : X86Mem → List Byte → Decoded α} {x : α} (hm : m ≠ 3) (h : takeMem a m n l k = .ok x) :
    ∃ o t, o.wf a = true ∧ modrm m r n :: l = encodeMem r o ++ t ∧ k o t = .ok x := by
  unfold takeMem at h
  split at h
  · rename_i ha
    subst ha
    split at h
    · rename_i h4
      subst h4
      obtain ⟨s, t, rfl, g⟩ := take8_ok h
      clear h
      split at g
      · rename_i e
        obtain ⟨rfl, e5⟩ := e
        obtain ⟨v, u, rfl, hk⟩ := take32_ok g
        refine ⟨_, u, ?_, ?_, hk⟩
        · rfl
        · show _ :: s :: _ = _ :: sibByte (fld s 6 2) (fld s 3 3) 5 :: _
          rw [show (5 : BitVec 3) = fld s 0 3 from e5.symm, sibByte_fld]; rfl
      · rename_i e
        obtain ⟨d, u, rfl, rfl, hk⟩ := takeDisp32_ok hm g
        refine ⟨_, u, ?_, ?_, hk⟩
        · simp only [X86Mem.wf, Bool.true_and, Bool.or_eq_true, bne_iff_ne]
          by_cases h5 : fld s 0 3 = 5#3
          · right; intro e0; exact e ⟨d.mod_ne.2.2 e0, h5⟩
          · left; exact h5
        · show _ :: s :: _ = _ :: sibByte (fld s 6 2) (fld s 3 3) (fld s 0 3) :: _
          rw [sibByte_fld]; rfl
    · rename_i h4
      split at h
      · rename_i e
        obtain ⟨rfl, rfl⟩ := e
        obtain ⟨v, u, rfl, hk⟩ := take32_ok h
        exact ⟨_, u, rfl, rfl, hk⟩
      · rename_i e
        obtain ⟨d, u, rfl, rfl, hk⟩ := takeDisp32_ok hm h
        refine ⟨_, u, ?_, rfl, hk⟩
        simp only [X86Mem.wf, Bool.true_and, Bool.and_eq_true, Bool.or_eq_true, bne_iff_ne]
        refine ⟨h4, ?_⟩
        by_cases h5 : n = 5#3
        · right; intro e0; exact e ⟨d.mod_ne.2.2 e0, h5⟩
        · left; exact h5
  · rename_i ha
    obtain rfl : a = false := by simpa using ha
    split at h
    · rename_i e
      obtain ⟨rfl, rfl⟩ := e
      obtain ⟨v, u, rfl, hk⟩ := take16_ok h
      exact ⟨_, u, rfl, rfl, hk⟩
    · rename_i e
      obtain ⟨d, u, rfl, rfl, hk⟩ := takeDisp16_ok hm h
      refine ⟨_, u, ?_, rfl, hk⟩
      simp only [X86Mem.wf, Bool.not_false, Bool.true_and, Bool.or_eq_true, bne_iff_ne]
      by_cases h6 : n = 6#3
      · right; intro e0; exact e ⟨d.mod_ne.2.2 e0, h6⟩
      · left; exact h6

/-- What the decoder of r/m operands reads is what their encoder writes. -/
theorem takeRM_ok {a : Bool} {l : List Byte} {k : BitVec 3 → X86RM → List Byte → Decoded α} {x : α}
    (h : takeRM a l k = .ok x) : ∃ r rm t, rm.wf a = true ∧ l = encodeRM r rm ++ t ∧ k r rm t = .ok x := by
  obtain ⟨b, t, rfl, g⟩ := take8_ok h
  clear h
  split at g
  · rename_i e
    refine ⟨_, _, t, rfl, ?_, g⟩
    show b :: t = modrm 3 (fld b 3 3) (fld b 0 3) :: t
    rw [show (3 : BitVec 2) = fld b 6 2 from e.symm, modrm_fld]
  · rename_i e
    obtain ⟨o, u, ho, hl, hk⟩ := takeMem_ok (r := fld b 3 3) e g
    refine ⟨_, .mem o, u, ho, ?_, hk⟩
    rw [modrm_fld] at hl
    exact hl

/-- What decodes behind a `/digit` is an r/m operand, and the digit is listed. -/
theorem takeDigit_ok {a : Bool} {listed : BitVec 3 → Bool} {l : List Byte}
    {k : BitVec 3 → X86RM → List Byte → Decoded α} {x : α} (h : takeDigit a listed l k = .ok x) :
    takeRM a l k = .ok x ∧ ∃ b t, l = b :: t ∧ listed (fld b 3 3) = true := by
  obtain ⟨b, t, rfl, g⟩ := take8_ok h
  split at g
  · rename_i e
    exact ⟨g, b, t, rfl, e⟩
  · cases g

/-! ### Bytes past the end of an instruction (spec/30_encoding.md R150, R240) -/

/-- A decoder of bytes looks at no byte past the ones that settle its answer. -/
def Settles (f : List Byte → Decoded α) : Prop := ∀ l r, f l ≠ .error .short → f (l ++ r) = f l

theorem settles_const (d : Decoded α) : Settles fun _ => d := fun _ _ _ => rfl

theorem settles_ite {c : Prop} [Decidable c] {f g : List Byte → Decoded α} (hf : Settles f) (hg : Settles g) :
    Settles fun l => if c then f l else g l := by
  intro l r h
  by_cases hc : c <;> simp only [hc, if_true, if_false] at h ⊢
  · exact hf l r h
  · exact hg l r h

theorem settles_take8 {k : BitVec 8 → List Byte → Decoded α} (hk : ∀ v, Settles (k v)) : Settles fun l => take8 l k := by
  intro l r h
  cases l with
  | nil => exact absurd rfl h
  | cons b t => exact hk b t r h

theorem settles_take16 {k : BitVec 16 → List Byte → Decoded α} (hk : ∀ v, Settles (k v)) :
    Settles fun l => take16 l k := by
  intro l r h
  match l with
  | [] => exact absurd rfl h
  | [_] => exact absurd rfl h
  | _ :: _ :: t => exact hk _ t r h

theorem settles_take32 {k : BitVec 32 → List Byte → Decoded α} (hk : ∀ v, Settles (k v)) :
    Settles fun l => take32 l k := by
  intro l r h
  match l with
  | [] => exact absurd rfl h
  | [_] => exact absurd rfl h
  | [_, _] => exact absurd rfl h
  | [_, _, _] => exact absurd rfl h
  | _ :: _ :: _ :: _ :: t => exact hk _ t r h

theorem settles_takeBySize {s : Bool} {k : BitVec 32 → List Byte → Decoded α} (hk : ∀ v, Settles (k v)) :
    Settles fun l => takeBySize s l k :=
  settles_ite (settles_take32 hk) (settles_take16 fun v => hk (v.setWidth 32))

theorem settles_takeDisp32 {m : BitVec 2} {k : X86Disp32 → List Byte → Decoded α} (hk : ∀ d, Settles (k d)) :
    Settles fun l => takeDisp32 m l k :=
  settles_ite (hk .none) (settles_ite (settles_take8 fun v => hk (.d8 v)) (settles_take32 fun v => hk (.d32 v)))

theorem settles_takeDisp16 {m : BitVec 2} {k : X86Disp16 → List Byte → Decoded α} (hk : ∀ d, Settles (k d)) :
    Settles fun l => takeDisp16 m l k :=
  settles_ite (hk .none) (settles_ite (settles_take8 fun v => hk (.d8 v)) (settles_take16 fun v => hk (.d16 v)))

theorem settles_takeMem {a : Bool} {m : BitVec 2} {n : BitVec 3} {k : X86Mem → List Byte → Decoded α}
    (hk : ∀ m, Settles (k m)) : Settles fun l => takeMem a m n l k :=
  settles_ite
    (settles_ite
      (settles_take8 fun _ => settles_ite (settles_take32 fun _ => hk _) (settles_takeDisp32 fun _ => hk _))
      (settles_ite (settles_take32 fun _ => hk _) (settles_takeDisp32 fun _ => hk _)))
    (settles_ite (settles_take16 fun _ => hk _) (settles_takeDisp16 fun _ => hk _))

theorem settles_takeRM {a : Bool} {k : BitVec 3 → X86RM → List Byte → Decoded α} (hk : ∀ r m, Settles (k r m)) :
    Settles fun l => takeRM a l k :=
  settles_take8 fun _ => settles_ite (hk _ _) (settles_takeMem fun _ => hk _ _)

theorem settles_takeDigit {a : Bool} {listed : BitVec 3 → Bool} {k : BitVec 3 → X86RM → List Byte → Decoded α}
    (hk : ∀ r m, Settles (k r m)) : Settles fun l => takeDigit a listed l k := by
  intro l r h
  cases l with
  | nil => exact absurd rfl h
  | cons b t =>
    unfold takeDigit take8 at h ⊢
    simp only [List.cons_append] at h ⊢
    split at h <;> rename_i hb
    · rw [if_pos hb, if_pos hb]; exact settles_takeRM hk (b :: t) r h
    · rw [if_neg hb, if_neg hb]

theorem settles_twoByte (b : Byte) (a : Bool) : Settles (decodeX86TwoByte b a) := by
  unfold decodeX86TwoByte
  repeat first
    | with_reducible apply settles_ite
    | exact settles_const _
    | (with_reducible apply settles_takeRM; intro _ _)
    | (with_reducible apply settles_take8; intro _)

theorem settles_modRM (b : Byte) (o a : Bool) : Settles (decodeX86ModRM b o a) := by
  unfold decodeX86ModRM
  repeat first
    | with_reducible apply settles_ite
    | exact settles_const _
    | (with_reducible apply settles_takeRM; intro _ _)
    | (with_reducible apply settles_takeDigit; intro _ rm)
    | (with_reducible apply settles_take8; intro _)
    | (with_reducible apply settles_takeBySize; intro _)
    | (cases rm)

theorem settles_plain (b : Byte) (o a : Bool) : Settles (decodeX86Plain b o a) := by
  unfold decodeX86Plain
  repeat first
    | with_reducible apply settles_ite
    | exact settles_const _
    | exact settles_modRM _ _ _
    | (with_reducible apply settles_take8; intro _)
    | (with_reducible apply settles_take16; intro _)
    | (with_reducible apply settles_takeBySize; intro _)

theorem settles_opcode (o a : Bool) (b : Byte) : Settles (decodeX86Opcode o a b) := by
  have alu (f : X86Alu) (k : BitVec 3) : Settles (decodeX86AluDirect f k o a) := by
    unfold decodeX86AluDirect
    repeat first
      | with_reducible apply settles_ite
      | exact settles_const _
      | (with_reducible apply settles_takeRM; intro _ _)
      | (with_reducible apply settles_take8; intro _)
      | (with_reducible apply settles_takeBySize; intro _)
  have group : Settles (decodeX86AluGroup b o a) := by
    unfold decodeX86AluGroup
    apply settles_takeDigit; intro d _
    cases X86Alu.ofDigit d
    · exact settles_const _
    · exact settles_ite (settles_take8 fun _ => settles_const _)
        (settles_ite (settles_takeBySize fun _ => settles_const _) (settles_take8 fun _ => settles_const _))
  unfold decodeX86Opcode
  cases X86Alu.ofDigit (fld b 3 3) <;>
  repeat first
    | with_reducible apply settles_ite
    | exact settles_const _
    | exact alu _ _
    | exact group
    | exact settles_plain _ _ _
    | (with_reducible apply settles_take8; intro _)
    | (with_reducible apply settles_takeBySize; intro _)
    | exact settles_twoByte _ _

theorem settles_map {f : List Byte → Decoded α} (g : α → β) (hf : Settles f) : Settles fun l => (f l).map g := by
  intro l r h
  have : f l ≠ .error .short := fun e => h (by simp only [e]; rfl)
  simp only [hf l r this]

/-- Bytes past the ones that decode, or that show that nothing is listed, do not change the answer. -/
theorem settles_decodeX86 (csD : Bool) (p : X86Pfx) : Settles (decodeX86 csD p) := by
  intro l
  induction l generalizing p with
  | nil => exact fun _ h => absurd (by unfold decodeX86; rfl) h
  | cons b l ih =>
    have step (q : X86Pfx) (g : Instr → Instr) (r : List Byte) (h : (decodeX86 csD q l).map g ≠ .error .short) :
        (decodeX86 csD q (l ++ r)).map g = (decodeX86 csD q l).map g := by
      rw [ih q r fun e => h (by rw [e]; rfl)]
    intro r h
    rw [List.cons_append, decodeX86, decodeX86]
    rw [decodeX86] at h
    by_cases h66 : b = 0x66#8
    · simp only [if_pos h66] at h ⊢
      by_cases hp : p.op = true
      · simp only [if_pos hp]
      · simp only [if_neg hp] at h ⊢; exact step _ _ _ h
    simp only [if_neg h66] at h ⊢
    by_cases h67 : b = 0x67#8
    · simp only [if_pos h67] at h ⊢
      by_cases hp : p.addr = true
      · simp only [if_pos hp]
      · simp only [if_neg hp] at h ⊢; exact step _ _ _ h
    simp only [if_neg h67] at h ⊢
    cases ho : overrideOf b with
    | none => simp only [ho] at h; exact settles_opcode _ _ _ _ _ h
    | some g =>
      simp only [ho] at h
      by_cases hp : p.seg.isSome = true
      · simp only [if_pos hp]
      · simp only [if_neg hp] at h ⊢; exact step _ _ _ h

end Sys2Proof
end

