-- ==== Sys2Proof/Laws/Flags.lean ====
section
/-! SUPPORT. The flag computations as integer conditions, and single bits of a status word. -/

namespace Sys2Proof.Machine

/-! ### Sums and differences -/

theorem addWith_eq (a b : BitVec w) (c : Bool) : addWith a b c = BitVec.ofNat w (a.toNat + b.toNat + c.toNat) := by
  apply BitVec.eq_of_toNat_eq
  cases c <;> simp [addWith]

theorem addWith_false (a b : BitVec w) : addWith a b false = a + b := by simp [addWith]

/-- Signed overflow of a sum, on naturals: `p` is the sign bit's weight. -/
theorem sum_leaves_range (p x y z : Nat) (hx : x < 2 * p) (hy : y < 2 * p) (hz : z < 2) :
    (decide (p ≤ x) = decide (p ≤ y) ∧ ¬ decide (p ≤ (x + y + z) % (2 * p)) = decide (p ≤ x)) ↔
    ¬ (-(p : Int) ≤ (if 2 * x < 2 * p then (x : Int) else x - (2 * p : Nat)) +
        (if 2 * y < 2 * p then (y : Int) else y - (2 * p : Nat)) + z ∧
      (if 2 * x < 2 * p then (x : Int) else x - (2 * p : Nat)) +
        (if 2 * y < 2 * p then (y : Int) else y - (2 * p : Nat)) + z < p) := by
  have hm : (x + y + z) % (2 * p) = x + y + z ∨ (x + y + z) % (2 * p) + 2 * p = x + y + z := by
    by_cases h : x + y + z < 2 * p
    · left; exact Nat.mod_eq_of_lt h
    · right; rw [Nat.mod_eq_sub_mod (by omega), Nat.mod_eq_of_lt (by omega)]; omega
  have hq : (x + y + z) % (2 * p) < 2 * p := Nat.mod_lt _ (by omega)
  generalize (x + y + z) % (2 * p) = q at *
  simp only [decide_eq_decide]
  split <;> split <;> rcases hm with hm | hm <;> omega

/-- Signed overflow of a difference, on naturals. -/
theorem difference_leaves_range (p x y : Nat) (hx : x < 2 * p) (hy : y < 2 * p) :
    (decide (p ≤ x) ≠ decide (p ≤ y) ∧ ¬ decide (p ≤ (2 * p - y + x) % (2 * p)) = decide (p ≤ x)) ↔
    ¬ (-(p : Int) ≤ (if 2 * x < 2 * p then (x : Int) else x - (2 * p : Nat)) -
        (if 2 * y < 2 * p then (y : Int) else y - (2 * p : Nat)) ∧
      (if 2 * x < 2 * p then (x : Int) else x - (2 * p : Nat)) -
        (if 2 * y < 2 * p then (y : Int) else y - (2 * p : Nat)) < p) := by
  have hm : (2 * p - y + x) % (2 * p) = 2 * p - y + x ∨ (2 * p - y + x) % (2 * p) + 2 * p = 2 * p - y + x := by
    by_cases h : 2 * p - y + x < 2 * p
    · left; exact Nat.mod_eq_of_lt h
    · right
      rw [Nat.mod_eq_sub_mod (by omega), Nat.mod_eq_of_lt (by omega)]
      omega
  have hq : (2 * p - y + x) % (2 * p) < 2 * p := Nat.mod_lt _ (by omega)
  generalize (2 * p - y + x) % (2 * p) = q at *
  simp only [ne_eq, decide_eq_decide]
  split <;> split <;> rcases hm with hm | hm <;> omega

/-- The sign test for the overflow of `a + b + c` is the integer one. -/
theorem overflowAdd_iff (a b : BitVec w) (c : Bool) (hw : 0 < w) :
    overflowAdd a b (addWith a b c) = true ↔
      ¬ (-(2 : Int) ^ (w - 1) ≤ a.toInt + b.toInt + c.toNat ∧
        a.toInt + b.toInt + c.toNat < 2 ^ (w - 1)) := by
  have h2 : (2 : Nat) ^ w = 2 * 2 ^ (w - 1) := by rw [← pow_succ']; congr; omega
  have hc : c.toNat < 2 := by cases c <;> simp
  have := sum_leaves_range (2 ^ (w - 1)) a.toNat b.toNat c.toNat (by rw [← h2]; exact a.isLt)
    (by rw [← h2]; exact b.isLt) hc
  rw [← h2] at this
  rw [addWith_eq]
  unfold overflowAdd
  rw [Bool.and_eq_true, beq_iff_eq, bne_iff_ne, BitVec.msb_eq_decide, BitVec.msb_eq_decide, BitVec.msb_eq_decide,
    BitVec.toNat_ofNat, BitVec.toInt_eq_toNat_cond, BitVec.toInt_eq_toNat_cond]
  push_cast at this ⊢
  exact this

/-- The sign test for the overflow of `a - b` is the integer one. -/
theorem overflowSub_iff (a b : BitVec w) (hw : 0 < w) :
    overflowSub a b (a - b) = true ↔
      ¬ (-(2 : Int) ^ (w - 1) ≤ a.toInt - b.toInt ∧ a.toInt - b.toInt < 2 ^ (w - 1)) := by
  have h2 : (2 : Nat) ^ w = 2 * 2 ^ (w - 1) := by rw [← pow_succ']; congr; omega
  have := difference_leaves_range (2 ^ (w - 1)) a.toNat b.toNat (by rw [← h2]; exact a.isLt)
    (by rw [← h2]; exact b.isLt)
  rw [← h2] at this
  unfold overflowSub
  rw [Bool.and_eq_true, bne_iff_ne, bne_iff_ne, BitVec.msb_eq_decide, BitVec.msb_eq_decide, BitVec.msb_eq_decide,
    BitVec.toNat_sub, BitVec.toInt_eq_toNat_cond, BitVec.toInt_eq_toNat_cond]
  push_cast at this ⊢
  exact this

/-- The overflow of a 32-bit sum (spec/41_arm.md R332; spec/42_powerpc.md R391). -/
theorem overflowAdd_word (a b : Word) (c : Bool) :
    overflowAdd a b (addWith a b c) = true ↔ Overflows32 (a.toInt + b.toInt + c.toNat) :=
  overflowAdd_iff a b c (by decide)

/-- The overflow of a 32-bit difference (spec/41_arm.md R332). -/
theorem overflowSub_word (a b : Word) : overflowSub a b (a - b) = true ↔ Overflows32 (a.toInt - b.toInt) :=
  overflowSub_iff a b (by decide)

/-! ### Parity -/

/-- PF as the count of 1 bits (spec/40_ia32.md R252). -/
theorem parity_iff (r : BitVec w) : parity r = true ↔ EvenParity r := by
  unfold parity EvenParity
  simp only [List.range, List.range.loop, List.countP_cons, List.countP_nil]
  generalize r.getLsbD 0 = a
  generalize r.getLsbD 1 = b
  generalize r.getLsbD 2 = c
  generalize r.getLsbD 3 = d
  generalize r.getLsbD 4 = e
  generalize r.getLsbD 5 = f
  generalize r.getLsbD 6 = g
  generalize r.getLsbD 7 = h
  revert a b c d e f g h
  decide

/-! ### Bits of a status word -/

/-- A status word after one bit is replaced. -/
theorem getLsbD_putBit (w : Word) (i k : Nat) (b : Bool) (hi : i < 32) :
    (putBit w i b).getLsbD k = if k = i then b else w.getLsbD k := by
  unfold putBit
  by_cases hk : k < 32
  · by_cases h : k = i
    · subst h
      cases b <;> simp [hk]
    · have h1 : (1#32 <<< i).getLsbD k = false := by
        simp only [BitVec.getLsbD_shiftLeft, BitVec.getLsbD_one]
        by_cases h2 : k < i
        · simp [h2]
        · have : ¬ k - i = 0 := by omega
          simp [this]
      rw [if_neg h]
      cases b
      · rw [if_neg (by decide), BitVec.getLsbD_and, BitVec.getLsbD_not, h1]; simp [hk]
      · rw [if_pos rfl, BitVec.getLsbD_or, h1]; simp
  · have : ¬ k = i := by omega
    rw [if_neg this, BitVec.getLsbD_of_ge _ _ (by omega), BitVec.getLsbD_of_ge _ _ (by omega)]

/-- The carry out as an integer condition. -/
theorem carryFrom_iff (a b : BitVec w) (c : Bool) : carryFrom a b c = true ↔ 2 ^ w ≤ a.toNat + b.toNat + c.toNat := by
  simp [carryFrom]

/-- The borrow as an integer condition. -/
theorem borrowFrom_iff (a b : BitVec w) : borrowFrom a b = true ↔ a.toNat < b.toNat := by simp [borrowFrom]

end Sys2Proof.Machine
end

