-- ==== Sys2Proof/Laws/Memory.lean ====
section
/-! SUPPORT. Memory: what a read after a write gives, that every operation keeps the canonical form, and the same for
the set of stored addresses. -/

namespace Sys2Proof.Machine

/-! ### Bytes -/

@[simp] theorem Memory.get_nil (a : Nat) : Memory.get [] a = Memory.unlisted := rfl

/-- Below every listed address a memory is unlisted. -/
theorem Memory.get_of_lt (m : Memory) (a : Nat) (h : ∀ c ∈ m, a < c.1) : m.get a = Memory.unlisted := by
  cases m with
  | nil => rfl
  | cons c t => simp [Memory.get, h c (by simp)]

/-- A written byte reads back. -/
theorem Memory.get_put_same (m : Memory) (a : Nat) (v : Byte) (h : m.Pairwise (fun c d => c.1 < d.1)) :
    (m.put a v).get a = v := by
  induction m with
  | nil => unfold Memory.put; split <;> simp_all [Memory.get]
  | cons c t ih =>
    obtain ⟨k, b⟩ := c
    rw [List.pairwise_cons] at h
    unfold Memory.put
    by_cases hlt : a < k
    · by_cases hv : v = Memory.unlisted <;> simp [hlt, hv, Memory.get]
    · by_cases he : a = k
      · subst he
        by_cases hv : v = Memory.unlisted
        · simp [hv, Memory.get_of_lt t a h.1]
        · simp [hv, Memory.get]
      · simp [hlt, he, Memory.get, ih h.2]

/-- Every other byte keeps its value. -/
theorem Memory.get_put_other (m : Memory) (a b : Nat) (v : Byte) (hm : m.Pairwise (fun c d => c.1 < d.1))
    (h : b ≠ a) : (m.put a v).get b = m.get b := by
  induction m with
  | nil =>
    unfold Memory.put
    split <;> simp [Memory.get, h]
  | cons c t ih =>
    obtain ⟨k, x⟩ := c
    rw [List.pairwise_cons] at hm
    unfold Memory.put
    by_cases hlt : a < k
    · by_cases hv : v = Memory.unlisted
      · simp [hlt, hv]
      · simp only [hlt, hv, if_true, if_false, Memory.get, h]
        split
        · rw [if_pos (by omega)]
        · rfl
    · by_cases he : a = k
      · subst he
        have ht : b < a → Memory.get t b = Memory.unlisted := fun hb => Memory.get_of_lt t b fun c hc => by
          have := hm.1 c hc; simp at this; omega
        by_cases hv : v = Memory.unlisted
        · by_cases hb : b < a <;> simp [hv, Memory.get, h, hb, ht]
        · simp [hv, Memory.get, h]
      · simp [hlt, he, Memory.get, ih hm.2]

/-- The addresses of a memory after a write. -/
theorem Memory.mem_put (m : Memory) (a : Nat) (v : Byte) (c : Host.Cell) (h : c ∈ m.put a v) :
    c ∈ m ∨ (c = (a, v) ∧ v ≠ Memory.unlisted) := by
  induction m with
  | nil =>
    unfold Memory.put at h
    split at h <;> simp_all
  | cons d t ih =>
    obtain ⟨k, b⟩ := d
    unfold Memory.put at h
    split at h
    · split at h <;> simp_all
      tauto
    · split at h
      · split at h <;> simp_all
        tauto
      · simp only [List.mem_cons] at h ⊢
        rcases h with h | h
        · exact .inl (.inl h)
        · rcases ih h with h | h
          · exact .inl (.inr h)
          · exact .inr h

/-- A write of one byte keeps the canonical form. -/
theorem Memory.wf_put (top : Nat) (m : Memory) (a : Nat) (v : Byte) (h : m.wf top) (ha : a < top) :
    (m.put a v).wf top := by
  refine ⟨?_, fun c hc => ?_⟩
  · have hp := h.1
    clear h
    induction m with
    | nil => unfold Memory.put; split <;> simp
    | cons d t ih =>
      obtain ⟨k, b⟩ := d
      rw [List.pairwise_cons] at hp
      unfold Memory.put
      split
      · split
        · exact List.pairwise_cons.2 hp
        · refine List.pairwise_cons.2 ⟨fun c hc => ?_, List.pairwise_cons.2 hp⟩
          rcases List.mem_cons.1 hc with rfl | hc
          · assumption
          · have := hp.1 c hc; simp at *; omega
      · split
        · rename_i heq
          subst heq
          split
          · exact hp.2
          · exact List.pairwise_cons.2 ⟨hp.1, hp.2⟩
        · refine List.pairwise_cons.2 ⟨fun c hc => ?_, ih hp.2⟩
          rcases Memory.mem_put t a v c hc with hc | ⟨rfl, -⟩
          · exact hp.1 c hc
          · simp; omega
  · rcases Memory.mem_put m a v c hc with hc | ⟨rfl, hv⟩
    · exact h.2 c hc
    · exact ⟨ha, hv⟩

/-! ### Several bytes -/

/-- Writing bytes keeps the canonical form. -/
theorem Memory.wf_putBytes (top : Nat) (ht : 0 < top) (l : List Byte) (m : Memory) (a : Nat) (h : m.wf top) :
    (m.putBytes top a l).wf top := by
  induction l generalizing m a with
  | nil => exact h
  | cons b t ih => exact ih _ _ (Memory.wf_put top m _ b h (Nat.mod_lt _ ht))

/-- Writing a value keeps the canonical form. -/
theorem Memory.wf_write (o : ByteOrder) (top : Nat) (ht : 0 < top) (m : Memory) (a : Nat) (v : BitVec w)
    (h : m.wf top) : (m.write o top w a v).wf top := by
  exact Memory.wf_putBytes top ht _ m a h

/-- Bytes outside those written keep their value. -/
theorem Memory.get_putBytes_other (top : Nat) (ht : 0 < top) (l : List Byte) (m : Memory) (a b : Nat) (h : m.wf top)
    (hb : ∀ j, j < l.length → b ≠ (a + j) % top) : (m.putBytes top a l).get b = m.get b := by
  induction l generalizing m a with
  | nil => rfl
  | cons v t ih =>
    rw [Memory.putBytes, ih _ _ (Memory.wf_put top m _ v h (Nat.mod_lt _ ht)) fun j hj => by
      have := hb (j + 1) (by simpa using hj)
      rwa [Nat.add_right_comm, Nat.add_assoc a j 1] ]
    exact Memory.get_put_other m _ b v h.1 (by simpa using hb 0 (by simp))

/-- The bytes written read back, when there are no more of them than addresses. -/
theorem Memory.bytes_putBytes (top : Nat) (ht : 0 < top) (l : List Byte) (m : Memory) (a : Nat) (h : m.wf top)
    (hl : l.length ≤ top) : (m.putBytes top a l).bytes top a l.length = l := by
  induction l generalizing m a with
  | nil => rfl
  | cons v t ih =>
    have hw := Memory.wf_put top m (a % top) v h (Nat.mod_lt _ ht)
    have hl' : t.length + 1 ≤ top := by simpa using hl
    rw [Memory.putBytes, List.length_cons, Memory.bytes, ih _ _ hw (by omega)]
    rw [Memory.get_putBytes_other top ht t _ _ _ hw, Memory.get_put_same m _ v h.1]
    intro j hj he
    have h1 : (a + (1 + j)) ≡ a [MOD top] := by unfold Nat.ModEq; rw [← Nat.add_assoc]; exact he.symm
    have h2 : (1 + j) ≡ 0 [MOD top] := by
      have := Nat.ModEq.add_left_cancel' a (by simpa using h1 : a + (1 + j) ≡ a + 0 [MOD top])
      exact this
    have h3 : (1 + j) % top = 0 := h2
    rw [Nat.mod_eq_of_lt (by omega)] at h3
    omega

/-! ### Values -/

@[simp] theorem bytesLE_length (n v : Nat) : (bytesLE n v).length = n := by
  induction n generalizing v with
  | zero => rfl
  | succ n ih => simp [bytesLE, ih]

/-- The bytes of a number give it back, modulo their range. -/
theorem valueLE_bytesLE (n v : Nat) : valueLE (bytesLE n v) = v % 2 ^ (8 * n) := by
  induction n generalizing v with
  | zero => simp [bytesLE, valueLE, Nat.mod_one]
  | succ n ih =>
    rw [bytesLE, valueLE, ih, BitVec.toNat_ofNat]
    have : (2 : Nat) ^ (8 * (n + 1)) = 256 * 2 ^ (8 * n) := by rw [Nat.mul_succ, pow_add]; ring
    rw [this, Nat.mod_mul]

/-- The bits of a number are those of its bytes. -/
theorem valueLE_testBit (l : List Byte) (j k : Nat) (hk : k < 8) :
    (valueLE l).testBit (8 * j + k) = (l.getD j 0#8).getLsbD k := by
  induction l generalizing j with
  | nil => simp [valueLE]
  | cons b t ih =>
    show (b.toNat + 256 * valueLE t).testBit _ = _
    cases j with
    | zero =>
      rw [show b.toNat + 256 * valueLE t = 2 ^ 8 * valueLE t + b.toNat by omega, Nat.testBit_two_pow_mul_add _ b.isLt]
      simp [hk]; rfl
    | succ j =>
      rw [show b.toNat + 256 * valueLE t = 2 ^ 8 * valueLE t + b.toNat by omega, Nat.testBit_two_pow_mul_add _ b.isLt]
      rw [if_neg (by omega), show 8 * (j + 1) + k - 8 = 8 * j + k by omega, ih]; simp

@[simp] theorem Memory.length_bytes (top n : Nat) (m : Memory) : ∀ a, (m.bytes top a n).length = n := by
  induction n with
  | zero => intro a; rfl
  | succ n ih => intro a; simp [Memory.bytes, ih]

theorem Memory.getD_bytes (top n : Nat) (m : Memory) :
    ∀ a j, j < n → (m.bytes top a n).getD j 0#8 = m.get ((a + j) % top) := by
  induction n with
  | zero => intro a j h; omega
  | succ n ih =>
    intro a j h
    cases j with
    | zero => rfl
    | succ j =>
      show (m.bytes top (a + 1) n).getD j 0#8 = _
      rw [ih _ _ (by omega)]; congr 2; omega

/-- A written value reads back (spec/20_memory.md R101). -/
theorem Memory.read_write_same (o : ByteOrder) (top : Nat) (ht : 0 < top) (m : Memory) (a : Nat) (v : BitVec w)
    (h : m.wf top) (hw : w / 8 ≤ top) (hb : w % 8 = 0) : (m.write o top w a v).read o top w a = v := by
  have hlen : ∀ l : List Byte, l.length = w / 8 → (m.putBytes top a l).bytes top a (w / 8) = l := fun l hl => by
    rw [← hl]; exact Memory.bytes_putBytes top ht l m a h (by omega)
  have hv : BitVec.ofNat w (valueLE (bytesLE (w / 8) v.toNat)) = v := by
    rw [valueLE_bytesLE, show 8 * (w / 8) = w by omega, Nat.mod_eq_of_lt v.isLt, BitVec.ofNat_toNat,
      BitVec.setWidth_eq]
  cases o
  · simp only [Memory.read, Memory.write]
    rw [hlen _ (bytesLE_length _ _), hv]
  · simp only [Memory.read, Memory.write]
    rw [hlen _ (by simp), List.reverse_reverse, hv]

/-- Bytes outside a written value keep their value (spec/20_memory.md R101). -/
theorem Memory.get_write_other (o : ByteOrder) (top : Nat) (ht : 0 < top) (m : Memory) (a b : Nat) (v : BitVec w)
    (h : m.wf top) (hb : ∀ j, j < w / 8 → b ≠ (a + j) % top) : (m.write o top w a v).get b = m.get b := by
  refine Memory.get_putBytes_other top ht _ m a b h fun j hj => hb j ?_
  cases o <;> simpa using hj

/-! ### Stored addresses -/

/-- What `add` lists. -/
theorem StoredSet.mem_add (l : StoredSet) (a b : Nat) : b ∈ l.add a ↔ b = a ∨ b ∈ l := by
  induction l with
  | nil => simp [StoredSet.add]
  | cons k t ih =>
    unfold StoredSet.add
    split
    · simp
    · split
      · rename_i h; subst h; simp
      · simp only [List.mem_cons, ih]; tauto

/-- `add` keeps the canonical form. -/
theorem StoredSet.wf_add (l : StoredSet) (a : Nat) (h : l.wf) : (l.add a).wf := by
  induction l with
  | nil => simp [StoredSet.add, StoredSet.wf]
  | cons k t ih =>
    have h' := List.pairwise_cons.1 h
    unfold StoredSet.add
    split
    · refine List.pairwise_cons.2 ⟨fun b hb => ?_, h⟩
      rcases List.mem_cons.1 hb with rfl | hb
      · assumption
      · have := h'.1 b hb; omega
    · split
      · exact h
      · refine List.pairwise_cons.2 ⟨fun b hb => ?_, ih h'.2⟩
        rcases (StoredSet.mem_add t a b).1 hb with rfl | hb
        · omega
        · exact h'.1 b hb

/-- What `addRange` lists. -/
theorem StoredSet.mem_addRange (top : Nat) (n : Nat) (l : StoredSet) (a b : Nat) :
    b ∈ l.addRange top a n ↔ b ∈ l ∨ ∃ j, j < n ∧ b = (a + j) % top := by
  induction n generalizing l a with
  | zero => simp [StoredSet.addRange]
  | succ n ih =>
    rw [StoredSet.addRange, ih, StoredSet.mem_add]
    constructor
    · rintro ((h | h) | ⟨j, hj, h⟩)
      · exact .inr ⟨0, by omega, by simpa using h⟩
      · exact .inl h
      · exact .inr ⟨j + 1, by omega, by rw [h, Nat.add_right_comm, Nat.add_assoc a j 1]⟩
    · rintro (h | ⟨j, hj, h⟩)
      · exact .inl (.inr h)
      · cases j with
        | zero => exact .inl (.inl (by simpa using h))
        | succ j => exact .inr ⟨j, by omega, by rw [h, Nat.add_right_comm, Nat.add_assoc a j 1]⟩

/-- `addRange` keeps the canonical form. -/
theorem StoredSet.wf_addRange (top : Nat) (n : Nat) (l : StoredSet) (a : Nat) (h : l.wf) :
    (l.addRange top a n).wf := by
  induction n generalizing l a with
  | zero => exact h
  | succ n ih => exact ih _ _ (StoredSet.wf_add l _ h)

/-- `forget` keeps the canonical form. -/
theorem StoredSet.wf_forget (top : Nat) (l : StoredSet) (a n : Nat) (h : l.wf) : (l.forget top a n).wf :=
  List.Pairwise.filter _ h

/-! ### Reset -/

/-- Every memory after reset is canonical. -/
theorem State.reset_memories_wf :
    State.reset.x86.mem.wf top32 ∧ State.reset.arm.mem.wf top32 ∧ State.reset.ppc.mem.wf top32 ∧
    State.reset.sparc.mem.wf top32 ∧ State.reset.mips.mem.wf top32 ∧ State.reset.rv.mem.wf State.reset.rv.top ∧
    State.reset.x86.stored.wf ∧ State.reset.rv.stored.wf := by
  refine ⟨?_, ?_, ?_, ?_, ?_, ?_, ?_, ?_⟩ <;> simp [State.reset, X86State.reset, ArmState.reset, PpcState.reset,
    SparcState.reset, MipsState.reset, RvState.reset, Memory.wf, StoredSet.wf]

end Sys2Proof.Machine
end

