-- ==== Sys2Proof/Laws/State.lean ====
section
/-! SUPPORT. What each update of a part's state leaves: one lemma for each field, so that no proof unfolds a record. -/

namespace Sys2Proof.Machine

/-! ### P1 -/

@[simp] theorem X86State.writeReg_segs (x : X86State) (n : BitVec 3) (v : BitVec w) :
    (x.writeReg n v).segs = x.segs := rfl
@[simp] theorem X86State.writeReg_eip (x : X86State) (n : BitVec 3) (v : BitVec w) :
    (x.writeReg n v).eip = x.eip := rfl
@[simp] theorem X86State.writeReg_flags (x : X86State) (n : BitVec 3) (v : BitVec w) :
    (x.writeReg n v).flags = x.flags := rfl
@[simp] theorem X86State.writeReg_pe (x : X86State) (n : BitVec 3) (v : BitVec w) : (x.writeReg n v).pe = x.pe := rfl
@[simp] theorem X86State.writeReg_vm (x : X86State) (n : BitVec 3) (v : BitVec w) : (x.writeReg n v).vm = x.vm := rfl
@[simp] theorem X86State.writeReg_iopl (x : X86State) (n : BitVec 3) (v : BitVec w) :
    (x.writeReg n v).iopl = x.iopl := rfl
@[simp] theorem X86State.writeReg_cpl (x : X86State) (n : BitVec 3) (v : BitVec w) :
    (x.writeReg n v).cpl = x.cpl := rfl
@[simp] theorem X86State.writeReg_alignCheck (x : X86State) (n : BitVec 3) (v : BitVec w) :
    (x.writeReg n v).alignCheck = x.alignCheck := rfl
@[simp] theorem X86State.writeReg_intEnable (x : X86State) (n : BitVec 3) (v : BitVec w) :
    (x.writeReg n v).intEnable = x.intEnable := rfl
@[simp] theorem X86State.writeReg_inhibitNext (x : X86State) (n : BitVec 3) (v : BitVec w) :
    (x.writeReg n v).inhibitNext = x.inhibitNext := rfl
@[simp] theorem X86State.writeReg_shutdown (x : X86State) (n : BitVec 3) (v : BitVec w) :
    (x.writeReg n v).shutdown = x.shutdown := rfl
@[simp] theorem X86State.writeReg_pfx (x : X86State) (n : BitVec 3) (v : BitVec w) :
    (x.writeReg n v).pfx = x.pfx := rfl
@[simp] theorem X86State.writeReg_mem (x : X86State) (n : BitVec 3) (v : BitVec w) :
    (x.writeReg n v).mem = x.mem := rfl
@[simp] theorem X86State.writeReg_stored (x : X86State) (n : BitVec 3) (v : BitVec w) :
    (x.writeReg n v).stored = x.stored := rfl
@[simp] theorem X86State.writeReg_params (x : X86State) (n : BitVec 3) (v : BitVec w) :
    (x.writeReg n v).params = x.params := rfl
@[simp] theorem X86State.writeReg_draws (x : X86State) (n : BitVec 3) (v : BitVec w) :
    (x.writeReg n v).draws = x.draws := rfl
@[simp] theorem X86State.setSp_segs (x : X86State) (v : Word) :
    (x.setSp v).segs = x.segs := by unfold X86State.setSp; split <;> rfl
@[simp] theorem X86State.setSp_eip (x : X86State) (v : Word) :
    (x.setSp v).eip = x.eip := by unfold X86State.setSp; split <;> rfl
@[simp] theorem X86State.setSp_flags (x : X86State) (v : Word) :
    (x.setSp v).flags = x.flags := by unfold X86State.setSp; split <;> rfl
@[simp] theorem X86State.setSp_pe (x : X86State) (v : Word) :
    (x.setSp v).pe = x.pe := by unfold X86State.setSp; split <;> rfl
@[simp] theorem X86State.setSp_vm (x : X86State) (v : Word) :
    (x.setSp v).vm = x.vm := by unfold X86State.setSp; split <;> rfl
@[simp] theorem X86State.setSp_iopl (x : X86State) (v : Word) :
    (x.setSp v).iopl = x.iopl := by unfold X86State.setSp; split <;> rfl
@[simp] theorem X86State.setSp_cpl (x : X86State) (v : Word) :
    (x.setSp v).cpl = x.cpl := by unfold X86State.setSp; split <;> rfl
@[simp] theorem X86State.setSp_alignCheck (x : X86State) (v : Word) :
    (x.setSp v).alignCheck = x.alignCheck := by unfold X86State.setSp; split <;> rfl
@[simp] theorem X86State.setSp_intEnable (x : X86State) (v : Word) :
    (x.setSp v).intEnable = x.intEnable := by unfold X86State.setSp; split <;> rfl
@[simp] theorem X86State.setSp_inhibitNext (x : X86State) (v : Word) :
    (x.setSp v).inhibitNext = x.inhibitNext := by unfold X86State.setSp; split <;> rfl
@[simp] theorem X86State.setSp_shutdown (x : X86State) (v : Word) :
    (x.setSp v).shutdown = x.shutdown := by unfold X86State.setSp; split <;> rfl
@[simp] theorem X86State.setSp_pfx (x : X86State) (v : Word) :
    (x.setSp v).pfx = x.pfx := by unfold X86State.setSp; split <;> rfl
@[simp] theorem X86State.setSp_mem (x : X86State) (v : Word) :
    (x.setSp v).mem = x.mem := by unfold X86State.setSp; split <;> rfl
@[simp] theorem X86State.setSp_stored (x : X86State) (v : Word) :
    (x.setSp v).stored = x.stored := by unfold X86State.setSp; split <;> rfl
@[simp] theorem X86State.setSp_params (x : X86State) (v : Word) :
    (x.setSp v).params = x.params := by unfold X86State.setSp; split <;> rfl
@[simp] theorem X86State.setSp_draws (x : X86State) (v : Word) :
    (x.setSp v).draws = x.draws := by unfold X86State.setSp; split <;> rfl
@[simp] theorem X86State.store_gpr (x : X86State) (a : Word) (v : BitVec w) : (x.store a v).gpr = x.gpr := rfl
@[simp] theorem X86State.store_segs (x : X86State) (a : Word) (v : BitVec w) : (x.store a v).segs = x.segs := rfl
@[simp] theorem X86State.store_eip (x : X86State) (a : Word) (v : BitVec w) : (x.store a v).eip = x.eip := rfl
@[simp] theorem X86State.store_flags (x : X86State) (a : Word) (v : BitVec w) : (x.store a v).flags = x.flags := rfl
@[simp] theorem X86State.store_pe (x : X86State) (a : Word) (v : BitVec w) : (x.store a v).pe = x.pe := rfl
@[simp] theorem X86State.store_vm (x : X86State) (a : Word) (v : BitVec w) : (x.store a v).vm = x.vm := rfl
@[simp] theorem X86State.store_iopl (x : X86State) (a : Word) (v : BitVec w) : (x.store a v).iopl = x.iopl := rfl
@[simp] theorem X86State.store_cpl (x : X86State) (a : Word) (v : BitVec w) : (x.store a v).cpl = x.cpl := rfl
@[simp] theorem X86State.store_alignCheck (x : X86State) (a : Word) (v : BitVec w) :
    (x.store a v).alignCheck = x.alignCheck := rfl
@[simp] theorem X86State.store_intEnable (x : X86State) (a : Word) (v : BitVec w) :
    (x.store a v).intEnable = x.intEnable := rfl
@[simp] theorem X86State.store_inhibitNext (x : X86State) (a : Word) (v : BitVec w) :
    (x.store a v).inhibitNext = x.inhibitNext := rfl
@[simp] theorem X86State.store_shutdown (x : X86State) (a : Word) (v : BitVec w) :
    (x.store a v).shutdown = x.shutdown := rfl
@[simp] theorem X86State.store_pfx (x : X86State) (a : Word) (v : BitVec w) : (x.store a v).pfx = x.pfx := rfl
@[simp] theorem X86State.store_params (x : X86State) (a : Word) (v : BitVec w) :
    (x.store a v).params = x.params := rfl
@[simp] theorem X86State.store_draws (x : X86State) (a : Word) (v : BitVec w) : (x.store a v).draws = x.draws := rfl
@[simp] theorem X86State.draw_gpr (x : X86State) (w : Nat) : (x.draw w).2.gpr = x.gpr := rfl
@[simp] theorem X86State.draw_segs (x : X86State) (w : Nat) : (x.draw w).2.segs = x.segs := rfl
@[simp] theorem X86State.draw_eip (x : X86State) (w : Nat) : (x.draw w).2.eip = x.eip := rfl
@[simp] theorem X86State.draw_flags (x : X86State) (w : Nat) : (x.draw w).2.flags = x.flags := rfl
@[simp] theorem X86State.draw_pe (x : X86State) (w : Nat) : (x.draw w).2.pe = x.pe := rfl
@[simp] theorem X86State.draw_vm (x : X86State) (w : Nat) : (x.draw w).2.vm = x.vm := rfl
@[simp] theorem X86State.draw_iopl (x : X86State) (w : Nat) : (x.draw w).2.iopl = x.iopl := rfl
@[simp] theorem X86State.draw_cpl (x : X86State) (w : Nat) : (x.draw w).2.cpl = x.cpl := rfl
@[simp] theorem X86State.draw_alignCheck (x : X86State) (w : Nat) : (x.draw w).2.alignCheck = x.alignCheck := rfl
@[simp] theorem X86State.draw_intEnable (x : X86State) (w : Nat) : (x.draw w).2.intEnable = x.intEnable := rfl
@[simp] theorem X86State.draw_inhibitNext (x : X86State) (w : Nat) : (x.draw w).2.inhibitNext = x.inhibitNext := rfl
@[simp] theorem X86State.draw_shutdown (x : X86State) (w : Nat) : (x.draw w).2.shutdown = x.shutdown := rfl
@[simp] theorem X86State.draw_pfx (x : X86State) (w : Nat) : (x.draw w).2.pfx = x.pfx := rfl
@[simp] theorem X86State.draw_mem (x : X86State) (w : Nat) : (x.draw w).2.mem = x.mem := rfl
@[simp] theorem X86State.draw_stored (x : X86State) (w : Nat) : (x.draw w).2.stored = x.stored := rfl
@[simp] theorem X86State.draw_params (x : X86State) (w : Nat) : (x.draw w).2.params = x.params := rfl
@[simp] theorem X86State.entered_gpr (x : X86State) (i : Instr) : (x.entered i).gpr = x.gpr := rfl
@[simp] theorem X86State.entered_segs (x : X86State) (i : Instr) : (x.entered i).segs = x.segs := rfl
@[simp] theorem X86State.entered_flags (x : X86State) (i : Instr) : (x.entered i).flags = x.flags := rfl
@[simp] theorem X86State.entered_pe (x : X86State) (i : Instr) : (x.entered i).pe = x.pe := rfl
@[simp] theorem X86State.entered_vm (x : X86State) (i : Instr) : (x.entered i).vm = x.vm := rfl
@[simp] theorem X86State.entered_iopl (x : X86State) (i : Instr) : (x.entered i).iopl = x.iopl := rfl
@[simp] theorem X86State.entered_cpl (x : X86State) (i : Instr) : (x.entered i).cpl = x.cpl := rfl
@[simp] theorem X86State.entered_alignCheck (x : X86State) (i : Instr) :
    (x.entered i).alignCheck = x.alignCheck := rfl
@[simp] theorem X86State.entered_intEnable (x : X86State) (i : Instr) : (x.entered i).intEnable = x.intEnable := rfl
@[simp] theorem X86State.entered_shutdown (x : X86State) (i : Instr) : (x.entered i).shutdown = x.shutdown := rfl
@[simp] theorem X86State.entered_pfx (x : X86State) (i : Instr) : (x.entered i).pfx = x.pfx := rfl
@[simp] theorem X86State.entered_mem (x : X86State) (i : Instr) : (x.entered i).mem = x.mem := rfl
@[simp] theorem X86State.entered_stored (x : X86State) (i : Instr) : (x.entered i).stored = x.stored := rfl
@[simp] theorem X86State.entered_params (x : X86State) (i : Instr) : (x.entered i).params = x.params := rfl
@[simp] theorem X86State.entered_draws (x : X86State) (i : Instr) : (x.entered i).draws = x.draws := rfl
@[simp] theorem X86State.entered_inhibitNext (x : X86State) (i : Instr) : (x.entered i).inhibitNext = false := rfl
@[simp] theorem X86State.entered_eip (x : X86State) (i : Instr) :
    (x.entered i).eip = x.eip + BitVec.ofNat 32 (x.lengthOf i) := rfl
@[simp] theorem X86State.inhibit_gpr (x : X86State) (b : Bool) :
    (x.inhibit b).gpr = x.gpr := by unfold X86State.inhibit; split <;> rfl
@[simp] theorem X86State.inhibit_segs (x : X86State) (b : Bool) :
    (x.inhibit b).segs = x.segs := by unfold X86State.inhibit; split <;> rfl
@[simp] theorem X86State.inhibit_eip (x : X86State) (b : Bool) :
    (x.inhibit b).eip = x.eip := by unfold X86State.inhibit; split <;> rfl
@[simp] theorem X86State.inhibit_flags (x : X86State) (b : Bool) :
    (x.inhibit b).flags = x.flags := by unfold X86State.inhibit; split <;> rfl
@[simp] theorem X86State.inhibit_pe (x : X86State) (b : Bool) :
    (x.inhibit b).pe = x.pe := by unfold X86State.inhibit; split <;> rfl
@[simp] theorem X86State.inhibit_vm (x : X86State) (b : Bool) :
    (x.inhibit b).vm = x.vm := by unfold X86State.inhibit; split <;> rfl
@[simp] theorem X86State.inhibit_iopl (x : X86State) (b : Bool) :
    (x.inhibit b).iopl = x.iopl := by unfold X86State.inhibit; split <;> rfl
@[simp] theorem X86State.inhibit_cpl (x : X86State) (b : Bool) :
    (x.inhibit b).cpl = x.cpl := by unfold X86State.inhibit; split <;> rfl
@[simp] theorem X86State.inhibit_alignCheck (x : X86State) (b : Bool) :
    (x.inhibit b).alignCheck = x.alignCheck := by unfold X86State.inhibit; split <;> rfl
@[simp] theorem X86State.inhibit_intEnable (x : X86State) (b : Bool) :
    (x.inhibit b).intEnable = x.intEnable := by unfold X86State.inhibit; split <;> rfl
@[simp] theorem X86State.inhibit_shutdown (x : X86State) (b : Bool) :
    (x.inhibit b).shutdown = x.shutdown := by unfold X86State.inhibit; split <;> rfl
@[simp] theorem X86State.inhibit_pfx (x : X86State) (b : Bool) :
    (x.inhibit b).pfx = x.pfx := by unfold X86State.inhibit; split <;> rfl
@[simp] theorem X86State.inhibit_mem (x : X86State) (b : Bool) :
    (x.inhibit b).mem = x.mem := by unfold X86State.inhibit; split <;> rfl
@[simp] theorem X86State.inhibit_stored (x : X86State) (b : Bool) :
    (x.inhibit b).stored = x.stored := by unfold X86State.inhibit; split <;> rfl
@[simp] theorem X86State.inhibit_params (x : X86State) (b : Bool) :
    (x.inhibit b).params = x.params := by unfold X86State.inhibit; split <;> rfl
@[simp] theorem X86State.countDown_segs (x : X86State) :
    x.countDown.segs = x.segs := by unfold X86State.countDown; split <;> rfl
@[simp] theorem X86State.countDown_eip (x : X86State) :
    x.countDown.eip = x.eip := by unfold X86State.countDown; split <;> rfl
@[simp] theorem X86State.countDown_flags (x : X86State) :
    x.countDown.flags = x.flags := by unfold X86State.countDown; split <;> rfl
@[simp] theorem X86State.countDown_pe (x : X86State) :
    x.countDown.pe = x.pe := by unfold X86State.countDown; split <;> rfl
@[simp] theorem X86State.countDown_vm (x : X86State) :
    x.countDown.vm = x.vm := by unfold X86State.countDown; split <;> rfl
@[simp] theorem X86State.countDown_iopl (x : X86State) :
    x.countDown.iopl = x.iopl := by unfold X86State.countDown; split <;> rfl
@[simp] theorem X86State.countDown_cpl (x : X86State) :
    x.countDown.cpl = x.cpl := by unfold X86State.countDown; split <;> rfl
@[simp] theorem X86State.countDown_alignCheck (x : X86State) :
    x.countDown.alignCheck = x.alignCheck := by unfold X86State.countDown; split <;> rfl
@[simp] theorem X86State.countDown_intEnable (x : X86State) :
    x.countDown.intEnable = x.intEnable := by unfold X86State.countDown; split <;> rfl
@[simp] theorem X86State.countDown_inhibitNext (x : X86State) :
    x.countDown.inhibitNext = x.inhibitNext := by unfold X86State.countDown; split <;> rfl
@[simp] theorem X86State.countDown_shutdown (x : X86State) :
    x.countDown.shutdown = x.shutdown := by unfold X86State.countDown; split <;> rfl
@[simp] theorem X86State.countDown_pfx (x : X86State) :
    x.countDown.pfx = x.pfx := by unfold X86State.countDown; split <;> rfl
@[simp] theorem X86State.countDown_mem (x : X86State) :
    x.countDown.mem = x.mem := by unfold X86State.countDown; split <;> rfl
@[simp] theorem X86State.countDown_stored (x : X86State) :
    x.countDown.stored = x.stored := by unfold X86State.countDown; split <;> rfl
@[simp] theorem X86State.countDown_params (x : X86State) :
    x.countDown.params = x.params := by unfold X86State.countDown; split <;> rfl
@[simp] theorem X86State.countDown_draws (x : X86State) :
    x.countDown.draws = x.draws := by unfold X86State.countDown; split <;> rfl
@[simp] theorem State.withX86_x86 (s : State) (x : X86State) : (s.withX86 x).x86 = { x with pfx := .none } := rfl
@[simp] theorem State.withX86_part (s : State) (x : X86State) : (s.withX86 x).part = s.part := rfl
@[simp] theorem State.withX86_arm (s : State) (x : X86State) : (s.withX86 x).arm = s.arm := rfl
@[simp] theorem State.withX86_ppc (s : State) (x : X86State) : (s.withX86 x).ppc = s.ppc := rfl
@[simp] theorem State.withX86_sparc (s : State) (x : X86State) : (s.withX86 x).sparc = s.sparc := rfl
@[simp] theorem State.withX86_mips (s : State) (x : X86State) : (s.withX86 x).mips = s.mips := rfl
@[simp] theorem State.withX86_rv (s : State) (x : X86State) : (s.withX86 x).rv = s.rv := rfl

/-! ### P2 -/

@[simp] theorem ArmState.setReg_cpsr (a : ArmState) (n : BitVec 4) (v : Word) : (a.setReg n v).cpsr = a.cpsr := rfl
@[simp] theorem ArmState.setReg_spsr (a : ArmState) (n : BitVec 4) (v : Word) : (a.setReg n v).spsr = a.spsr := rfl
@[simp] theorem ArmState.setReg_params (a : ArmState) (n : BitVec 4) (v : Word) :
    (a.setReg n v).params = a.params := rfl
@[simp] theorem ArmState.setReg_mem (a : ArmState) (n : BitVec 4) (v : Word) : (a.setReg n v).mem = a.mem := rfl
@[simp] theorem ArmState.setReg_draws (a : ArmState) (n : BitVec 4) (v : Word) : (a.setReg n v).draws = a.draws := rfl
@[simp] theorem ArmState.advance_cpsr (a : ArmState) : a.advance.cpsr = a.cpsr := rfl
@[simp] theorem ArmState.advance_spsr (a : ArmState) : a.advance.spsr = a.spsr := rfl
@[simp] theorem ArmState.advance_params (a : ArmState) : a.advance.params = a.params := rfl
@[simp] theorem ArmState.advance_mem (a : ArmState) : a.advance.mem = a.mem := rfl
@[simp] theorem ArmState.advance_draws (a : ArmState) : a.advance.draws = a.draws := rfl
@[simp] theorem ArmState.setNZCV_r (a : ArmState) (n z c v : Bool) : (a.setNZCV n z c v).r = a.r := rfl
@[simp] theorem ArmState.setNZCV_spsr (a : ArmState) (n z c v : Bool) : (a.setNZCV n z c v).spsr = a.spsr := rfl
@[simp] theorem ArmState.setNZCV_params (a : ArmState) (n z c v : Bool) : (a.setNZCV n z c v).params = a.params := rfl
@[simp] theorem ArmState.setNZCV_mem (a : ArmState) (n z c v : Bool) : (a.setNZCV n z c v).mem = a.mem := rfl
@[simp] theorem ArmState.setNZCV_draws (a : ArmState) (n z c v : Bool) : (a.setNZCV n z c v).draws = a.draws := rfl
@[simp] theorem ArmState.setResultFlags_r (a : ArmState) (r : Word) (c v : Bool) :
    (a.setResultFlags r c v).r = a.r := rfl
@[simp] theorem ArmState.setResultFlags_spsr (a : ArmState) (r : Word) (c v : Bool) :
    (a.setResultFlags r c v).spsr = a.spsr := rfl
@[simp] theorem ArmState.setResultFlags_params (a : ArmState) (r : Word) (c v : Bool) :
    (a.setResultFlags r c v).params = a.params := rfl
@[simp] theorem ArmState.setResultFlags_mem (a : ArmState) (r : Word) (c v : Bool) :
    (a.setResultFlags r c v).mem = a.mem := rfl
@[simp] theorem ArmState.setResultFlags_draws (a : ArmState) (r : Word) (c v : Bool) :
    (a.setResultFlags r c v).draws = a.draws := rfl
@[simp] theorem ArmState.draw_r (a : ArmState) (w : Nat) : (a.draw w).2.r = a.r := rfl
@[simp] theorem ArmState.draw_cpsr (a : ArmState) (w : Nat) : (a.draw w).2.cpsr = a.cpsr := rfl
@[simp] theorem ArmState.draw_spsr (a : ArmState) (w : Nat) : (a.draw w).2.spsr = a.spsr := rfl
@[simp] theorem ArmState.draw_params (a : ArmState) (w : Nat) : (a.draw w).2.params = a.params := rfl
@[simp] theorem ArmState.draw_mem (a : ArmState) (w : Nat) : (a.draw w).2.mem = a.mem := rfl

/-! ### P3 -/

@[simp] theorem PpcState.setReg_cr (p : PpcState) (n : BitVec 5) (v : Word) : (p.setReg n v).cr = p.cr := rfl
@[simp] theorem PpcState.setReg_xer (p : PpcState) (n : BitVec 5) (v : Word) : (p.setReg n v).xer = p.xer := rfl
@[simp] theorem PpcState.setReg_lr (p : PpcState) (n : BitVec 5) (v : Word) : (p.setReg n v).lr = p.lr := rfl
@[simp] theorem PpcState.setReg_ctr (p : PpcState) (n : BitVec 5) (v : Word) : (p.setReg n v).ctr = p.ctr := rfl
@[simp] theorem PpcState.setReg_cia (p : PpcState) (n : BitVec 5) (v : Word) : (p.setReg n v).cia = p.cia := rfl
@[simp] theorem PpcState.setReg_params (p : PpcState) (n : BitVec 5) (v : Word) :
    (p.setReg n v).params = p.params := rfl
@[simp] theorem PpcState.setReg_mem (p : PpcState) (n : BitVec 5) (v : Word) : (p.setReg n v).mem = p.mem := rfl
@[simp] theorem PpcState.advance_gpr (p : PpcState) : p.advance.gpr = p.gpr := rfl
@[simp] theorem PpcState.advance_cr (p : PpcState) : p.advance.cr = p.cr := rfl
@[simp] theorem PpcState.advance_xer (p : PpcState) : p.advance.xer = p.xer := rfl
@[simp] theorem PpcState.advance_lr (p : PpcState) : p.advance.lr = p.lr := rfl
@[simp] theorem PpcState.advance_ctr (p : PpcState) : p.advance.ctr = p.ctr := rfl
@[simp] theorem PpcState.advance_params (p : PpcState) : p.advance.params = p.params := rfl
@[simp] theorem PpcState.advance_mem (p : PpcState) : p.advance.mem = p.mem := rfl
@[simp] theorem PpcState.setCr0_gpr (p : PpcState) (r : Word) : (p.setCr0 r).gpr = p.gpr := rfl
@[simp] theorem PpcState.setCr0_xer (p : PpcState) (r : Word) : (p.setCr0 r).xer = p.xer := rfl
@[simp] theorem PpcState.setCr0_lr (p : PpcState) (r : Word) : (p.setCr0 r).lr = p.lr := rfl
@[simp] theorem PpcState.setCr0_ctr (p : PpcState) (r : Word) : (p.setCr0 r).ctr = p.ctr := rfl
@[simp] theorem PpcState.setCr0_cia (p : PpcState) (r : Word) : (p.setCr0 r).cia = p.cia := rfl
@[simp] theorem PpcState.setCr0_params (p : PpcState) (r : Word) : (p.setCr0 r).params = p.params := rfl
@[simp] theorem PpcState.setCr0_mem (p : PpcState) (r : Word) : (p.setCr0 r).mem = p.mem := rfl
@[simp] theorem PpcState.record_gpr (p : PpcState) (rc : Bool) (r : Word) :
    (p.record rc r).gpr = p.gpr := by unfold PpcState.record; split <;> rfl
@[simp] theorem PpcState.record_xer (p : PpcState) (rc : Bool) (r : Word) :
    (p.record rc r).xer = p.xer := by unfold PpcState.record; split <;> rfl
@[simp] theorem PpcState.record_lr (p : PpcState) (rc : Bool) (r : Word) :
    (p.record rc r).lr = p.lr := by unfold PpcState.record; split <;> rfl
@[simp] theorem PpcState.record_ctr (p : PpcState) (rc : Bool) (r : Word) :
    (p.record rc r).ctr = p.ctr := by unfold PpcState.record; split <;> rfl
@[simp] theorem PpcState.record_cia (p : PpcState) (rc : Bool) (r : Word) :
    (p.record rc r).cia = p.cia := by unfold PpcState.record; split <;> rfl
@[simp] theorem PpcState.record_params (p : PpcState) (rc : Bool) (r : Word) :
    (p.record rc r).params = p.params := by unfold PpcState.record; split <;> rfl
@[simp] theorem PpcState.record_mem (p : PpcState) (rc : Bool) (r : Word) :
    (p.record rc r).mem = p.mem := by unfold PpcState.record; split <;> rfl
@[simp] theorem PpcState.setXerSum_gpr (p : PpcState) (a b : Word) (c oe : Bool) :
    (p.setXerSum a b c oe).gpr = p.gpr := rfl
@[simp] theorem PpcState.setXerSum_cr (p : PpcState) (a b : Word) (c oe : Bool) :
    (p.setXerSum a b c oe).cr = p.cr := rfl
@[simp] theorem PpcState.setXerSum_lr (p : PpcState) (a b : Word) (c oe : Bool) :
    (p.setXerSum a b c oe).lr = p.lr := rfl
@[simp] theorem PpcState.setXerSum_ctr (p : PpcState) (a b : Word) (c oe : Bool) :
    (p.setXerSum a b c oe).ctr = p.ctr := rfl
@[simp] theorem PpcState.setXerSum_cia (p : PpcState) (a b : Word) (c oe : Bool) :
    (p.setXerSum a b c oe).cia = p.cia := rfl
@[simp] theorem PpcState.setXerSum_params (p : PpcState) (a b : Word) (c oe : Bool) :
    (p.setXerSum a b c oe).params = p.params := rfl
@[simp] theorem PpcState.setXerSum_mem (p : PpcState) (a b : Word) (c oe : Bool) :
    (p.setXerSum a b c oe).mem = p.mem := rfl

/-! ### P4 -/

@[simp] theorem SparcState.setReg_pc (p : SparcState) (n : BitVec 5) (v : Word) :
    (p.setReg n v).pc = p.pc := by unfold SparcState.setReg; split <;> rfl
@[simp] theorem SparcState.setReg_npc (p : SparcState) (n : BitVec 5) (v : Word) :
    (p.setReg n v).npc = p.npc := by unfold SparcState.setReg; split <;> rfl
@[simp] theorem SparcState.setReg_psr (p : SparcState) (n : BitVec 5) (v : Word) :
    (p.setReg n v).psr = p.psr := by unfold SparcState.setReg; split <;> rfl
@[simp] theorem SparcState.setReg_y (p : SparcState) (n : BitVec 5) (v : Word) :
    (p.setReg n v).y = p.y := by unfold SparcState.setReg; split <;> rfl
@[simp] theorem SparcState.setReg_wim (p : SparcState) (n : BitVec 5) (v : Word) :
    (p.setReg n v).wim = p.wim := by unfold SparcState.setReg; split <;> rfl
@[simp] theorem SparcState.setReg_tbr (p : SparcState) (n : BitVec 5) (v : Word) :
    (p.setReg n v).tbr = p.tbr := by unfold SparcState.setReg; split <;> rfl
@[simp] theorem SparcState.setReg_annulNext (p : SparcState) (n : BitVec 5) (v : Word) :
    (p.setReg n v).annulNext = p.annulNext := by unfold SparcState.setReg; split <;> rfl
@[simp] theorem SparcState.setReg_inDelaySlot (p : SparcState) (n : BitVec 5) (v : Word) :
    (p.setReg n v).inDelaySlot = p.inDelaySlot := by unfold SparcState.setReg; split <;> rfl
@[simp] theorem SparcState.setReg_params (p : SparcState) (n : BitVec 5) (v : Word) :
    (p.setReg n v).params = p.params := by unfold SparcState.setReg; split <;> rfl
@[simp] theorem SparcState.setReg_mem (p : SparcState) (n : BitVec 5) (v : Word) :
    (p.setReg n v).mem = p.mem := by unfold SparcState.setReg; split <;> rfl
@[simp] theorem SparcState.setIcc_r (p : SparcState) (n z v c : Bool) : (p.setIcc n z v c).r = p.r := rfl
@[simp] theorem SparcState.setIcc_pc (p : SparcState) (n z v c : Bool) : (p.setIcc n z v c).pc = p.pc := rfl
@[simp] theorem SparcState.setIcc_npc (p : SparcState) (n z v c : Bool) : (p.setIcc n z v c).npc = p.npc := rfl
@[simp] theorem SparcState.setIcc_y (p : SparcState) (n z v c : Bool) : (p.setIcc n z v c).y = p.y := rfl
@[simp] theorem SparcState.setIcc_wim (p : SparcState) (n z v c : Bool) : (p.setIcc n z v c).wim = p.wim := rfl
@[simp] theorem SparcState.setIcc_tbr (p : SparcState) (n z v c : Bool) : (p.setIcc n z v c).tbr = p.tbr := rfl
@[simp] theorem SparcState.setIcc_annulNext (p : SparcState) (n z v c : Bool) :
    (p.setIcc n z v c).annulNext = p.annulNext := rfl
@[simp] theorem SparcState.setIcc_inDelaySlot (p : SparcState) (n z v c : Bool) :
    (p.setIcc n z v c).inDelaySlot = p.inDelaySlot := rfl
@[simp] theorem SparcState.setIcc_params (p : SparcState) (n z v c : Bool) :
    (p.setIcc n z v c).params = p.params := rfl
@[simp] theorem SparcState.setIcc_mem (p : SparcState) (n z v c : Bool) : (p.setIcc n z v c).mem = p.mem := rfl
@[simp] theorem SparcState.setIccAdd_r (p : SparcState) (a b : Word) : (p.setIccAdd a b).r = p.r := rfl
@[simp] theorem SparcState.setIccAdd_pc (p : SparcState) (a b : Word) : (p.setIccAdd a b).pc = p.pc := rfl
@[simp] theorem SparcState.setIccAdd_npc (p : SparcState) (a b : Word) : (p.setIccAdd a b).npc = p.npc := rfl
@[simp] theorem SparcState.setIccAdd_y (p : SparcState) (a b : Word) : (p.setIccAdd a b).y = p.y := rfl
@[simp] theorem SparcState.setIccAdd_wim (p : SparcState) (a b : Word) : (p.setIccAdd a b).wim = p.wim := rfl
@[simp] theorem SparcState.setIccAdd_tbr (p : SparcState) (a b : Word) : (p.setIccAdd a b).tbr = p.tbr := rfl
@[simp] theorem SparcState.setIccAdd_annulNext (p : SparcState) (a b : Word) :
    (p.setIccAdd a b).annulNext = p.annulNext := rfl
@[simp] theorem SparcState.setIccAdd_inDelaySlot (p : SparcState) (a b : Word) :
    (p.setIccAdd a b).inDelaySlot = p.inDelaySlot := rfl
@[simp] theorem SparcState.setIccAdd_params (p : SparcState) (a b : Word) : (p.setIccAdd a b).params = p.params := rfl
@[simp] theorem SparcState.setIccAdd_mem (p : SparcState) (a b : Word) : (p.setIccAdd a b).mem = p.mem := rfl
@[simp] theorem SparcState.setIccSub_r (p : SparcState) (a b : Word) : (p.setIccSub a b).r = p.r := rfl
@[simp] theorem SparcState.setIccSub_pc (p : SparcState) (a b : Word) : (p.setIccSub a b).pc = p.pc := rfl
@[simp] theorem SparcState.setIccSub_npc (p : SparcState) (a b : Word) : (p.setIccSub a b).npc = p.npc := rfl
@[simp] theorem SparcState.setIccSub_y (p : SparcState) (a b : Word) : (p.setIccSub a b).y = p.y := rfl
@[simp] theorem SparcState.setIccSub_wim (p : SparcState) (a b : Word) : (p.setIccSub a b).wim = p.wim := rfl
@[simp] theorem SparcState.setIccSub_tbr (p : SparcState) (a b : Word) : (p.setIccSub a b).tbr = p.tbr := rfl
@[simp] theorem SparcState.setIccSub_annulNext (p : SparcState) (a b : Word) :
    (p.setIccSub a b).annulNext = p.annulNext := rfl
@[simp] theorem SparcState.setIccSub_inDelaySlot (p : SparcState) (a b : Word) :
    (p.setIccSub a b).inDelaySlot = p.inDelaySlot := rfl
@[simp] theorem SparcState.setIccSub_params (p : SparcState) (a b : Word) : (p.setIccSub a b).params = p.params := rfl
@[simp] theorem SparcState.setIccSub_mem (p : SparcState) (a b : Word) : (p.setIccSub a b).mem = p.mem := rfl
@[simp] theorem SparcState.advance_r (p : SparcState) : p.advance.r = p.r := rfl
@[simp] theorem SparcState.advance_psr (p : SparcState) : p.advance.psr = p.psr := rfl
@[simp] theorem SparcState.advance_y (p : SparcState) : p.advance.y = p.y := rfl
@[simp] theorem SparcState.advance_wim (p : SparcState) : p.advance.wim = p.wim := rfl
@[simp] theorem SparcState.advance_tbr (p : SparcState) : p.advance.tbr = p.tbr := rfl
@[simp] theorem SparcState.advance_annulNext (p : SparcState) : p.advance.annulNext = p.annulNext := rfl
@[simp] theorem SparcState.advance_params (p : SparcState) : p.advance.params = p.params := rfl
@[simp] theorem SparcState.advance_mem (p : SparcState) : p.advance.mem = p.mem := rfl
@[simp] theorem SparcState.transfer_r (p : SparcState) (npc : Word) (an : Bool) : (p.transfer npc an).r = p.r := rfl
@[simp] theorem SparcState.transfer_psr (p : SparcState) (npc : Word) (an : Bool) :
    (p.transfer npc an).psr = p.psr := rfl
@[simp] theorem SparcState.transfer_y (p : SparcState) (npc : Word) (an : Bool) : (p.transfer npc an).y = p.y := rfl
@[simp] theorem SparcState.transfer_wim (p : SparcState) (npc : Word) (an : Bool) :
    (p.transfer npc an).wim = p.wim := rfl
@[simp] theorem SparcState.transfer_tbr (p : SparcState) (npc : Word) (an : Bool) :
    (p.transfer npc an).tbr = p.tbr := rfl
@[simp] theorem SparcState.transfer_params (p : SparcState) (npc : Word) (an : Bool) :
    (p.transfer npc an).params = p.params := rfl
@[simp] theorem SparcState.transfer_mem (p : SparcState) (npc : Word) (an : Bool) :
    (p.transfer npc an).mem = p.mem := rfl

/-! ### P5 -/

@[simp] theorem MipsState.setReg_pc (p : MipsState) (n : BitVec 5) (v : Word) :
    (p.setReg n v).pc = p.pc := by unfold MipsState.setReg; split <;> rfl
@[simp] theorem MipsState.setReg_delayed (p : MipsState) (n : BitVec 5) (v : Word) :
    (p.setReg n v).delayed = p.delayed := by unfold MipsState.setReg; split <;> rfl
@[simp] theorem MipsState.setReg_isaMode (p : MipsState) (n : BitVec 5) (v : Word) :
    (p.setReg n v).isaMode = p.isaMode := by unfold MipsState.setReg; split <;> rfl
@[simp] theorem MipsState.setReg_params (p : MipsState) (n : BitVec 5) (v : Word) :
    (p.setReg n v).params = p.params := by unfold MipsState.setReg; split <;> rfl
@[simp] theorem MipsState.setReg_mem (p : MipsState) (n : BitVec 5) (v : Word) :
    (p.setReg n v).mem = p.mem := by unfold MipsState.setReg; split <;> rfl
@[simp] theorem MipsState.advance_gpr (p : MipsState) :
    p.advance.gpr = p.gpr := by unfold MipsState.advance; split <;> rfl
@[simp] theorem MipsState.advance_params (p : MipsState) :
    p.advance.params = p.params := by unfold MipsState.advance; split <;> rfl
@[simp] theorem MipsState.advance_mem (p : MipsState) :
    p.advance.mem = p.mem := by unfold MipsState.advance; split <;> rfl

/-! ### P6 -/

@[simp] theorem RvState.setReg_pc (p : RvState) (i : BitVec 5) (v : BitVec n) :
    (p.setReg i v).pc = p.pc := by unfold RvState.setReg; split <;> rfl
@[simp] theorem RvState.setReg_priv (p : RvState) (i : BitVec 5) (v : BitVec n) :
    (p.setReg i v).priv = p.priv := by unfold RvState.setReg; split <;> rfl
@[simp] theorem RvState.setReg_mie (p : RvState) (i : BitVec 5) (v : BitVec n) :
    (p.setReg i v).mie = p.mie := by unfold RvState.setReg; split <;> rfl
@[simp] theorem RvState.setReg_mpie (p : RvState) (i : BitVec 5) (v : BitVec n) :
    (p.setReg i v).mpie = p.mpie := by unfold RvState.setReg; split <;> rfl
@[simp] theorem RvState.setReg_mpp (p : RvState) (i : BitVec 5) (v : BitVec n) :
    (p.setReg i v).mpp = p.mpp := by unfold RvState.setReg; split <;> rfl
@[simp] theorem RvState.setReg_mepc (p : RvState) (i : BitVec 5) (v : BitVec n) :
    (p.setReg i v).mepc = p.mepc := by unfold RvState.setReg; split <;> rfl
@[simp] theorem RvState.setReg_sie (p : RvState) (i : BitVec 5) (v : BitVec n) :
    (p.setReg i v).sie = p.sie := by unfold RvState.setReg; split <;> rfl
@[simp] theorem RvState.setReg_spie (p : RvState) (i : BitVec 5) (v : BitVec n) :
    (p.setReg i v).spie = p.spie := by unfold RvState.setReg; split <;> rfl
@[simp] theorem RvState.setReg_spp (p : RvState) (i : BitVec 5) (v : BitVec n) :
    (p.setReg i v).spp = p.spp := by unfold RvState.setReg; split <;> rfl
@[simp] theorem RvState.setReg_sepc (p : RvState) (i : BitVec 5) (v : BitVec n) :
    (p.setReg i v).sepc = p.sepc := by unfold RvState.setReg; split <;> rfl
@[simp] theorem RvState.setReg_cycle (p : RvState) (i : BitVec 5) (v : BitVec n) :
    (p.setReg i v).cycle = p.cycle := by unfold RvState.setReg; split <;> rfl
@[simp] theorem RvState.setReg_reservation (p : RvState) (i : BitVec 5) (v : BitVec n) :
    (p.setReg i v).reservation = p.reservation := by unfold RvState.setReg; split <;> rfl
@[simp] theorem RvState.setReg_params (p : RvState) (i : BitVec 5) (v : BitVec n) :
    (p.setReg i v).params = p.params := by unfold RvState.setReg; split <;> rfl
@[simp] theorem RvState.setReg_mem (p : RvState) (i : BitVec 5) (v : BitVec n) :
    (p.setReg i v).mem = p.mem := by unfold RvState.setReg; split <;> rfl
@[simp] theorem RvState.setReg_stored (p : RvState) (i : BitVec 5) (v : BitVec n) :
    (p.setReg i v).stored = p.stored := by unfold RvState.setReg; split <;> rfl
@[simp] theorem RvState.setReg_draws (p : RvState) (i : BitVec 5) (v : BitVec n) :
    (p.setReg i v).draws = p.draws := by unfold RvState.setReg; split <;> rfl
@[simp] theorem RvState.draw_x (p : RvState) (w : Nat) : (p.draw w).2.x = p.x := rfl
@[simp] theorem RvState.draw_pc (p : RvState) (w : Nat) : (p.draw w).2.pc = p.pc := rfl
@[simp] theorem RvState.draw_priv (p : RvState) (w : Nat) : (p.draw w).2.priv = p.priv := rfl
@[simp] theorem RvState.draw_mie (p : RvState) (w : Nat) : (p.draw w).2.mie = p.mie := rfl
@[simp] theorem RvState.draw_mpie (p : RvState) (w : Nat) : (p.draw w).2.mpie = p.mpie := rfl
@[simp] theorem RvState.draw_mpp (p : RvState) (w : Nat) : (p.draw w).2.mpp = p.mpp := rfl
@[simp] theorem RvState.draw_mepc (p : RvState) (w : Nat) : (p.draw w).2.mepc = p.mepc := rfl
@[simp] theorem RvState.draw_sie (p : RvState) (w : Nat) : (p.draw w).2.sie = p.sie := rfl
@[simp] theorem RvState.draw_spie (p : RvState) (w : Nat) : (p.draw w).2.spie = p.spie := rfl
@[simp] theorem RvState.draw_spp (p : RvState) (w : Nat) : (p.draw w).2.spp = p.spp := rfl
@[simp] theorem RvState.draw_sepc (p : RvState) (w : Nat) : (p.draw w).2.sepc = p.sepc := rfl
@[simp] theorem RvState.draw_cycle (p : RvState) (w : Nat) : (p.draw w).2.cycle = p.cycle := rfl
@[simp] theorem RvState.draw_reservation (p : RvState) (w : Nat) : (p.draw w).2.reservation = p.reservation := rfl
@[simp] theorem RvState.draw_params (p : RvState) (w : Nat) : (p.draw w).2.params = p.params := rfl
@[simp] theorem RvState.draw_mem (p : RvState) (w : Nat) : (p.draw w).2.mem = p.mem := rfl
@[simp] theorem RvState.draw_stored (p : RvState) (w : Nat) : (p.draw w).2.stored = p.stored := rfl
@[simp] theorem RvState.advance_x (p : RvState) (len : DWord) : (p.advance len).x = p.x := rfl
@[simp] theorem RvState.advance_priv (p : RvState) (len : DWord) : (p.advance len).priv = p.priv := rfl
@[simp] theorem RvState.advance_mie (p : RvState) (len : DWord) : (p.advance len).mie = p.mie := rfl
@[simp] theorem RvState.advance_mpie (p : RvState) (len : DWord) : (p.advance len).mpie = p.mpie := rfl
@[simp] theorem RvState.advance_mpp (p : RvState) (len : DWord) : (p.advance len).mpp = p.mpp := rfl
@[simp] theorem RvState.advance_mepc (p : RvState) (len : DWord) : (p.advance len).mepc = p.mepc := rfl
@[simp] theorem RvState.advance_sie (p : RvState) (len : DWord) : (p.advance len).sie = p.sie := rfl
@[simp] theorem RvState.advance_spie (p : RvState) (len : DWord) : (p.advance len).spie = p.spie := rfl
@[simp] theorem RvState.advance_spp (p : RvState) (len : DWord) : (p.advance len).spp = p.spp := rfl
@[simp] theorem RvState.advance_sepc (p : RvState) (len : DWord) : (p.advance len).sepc = p.sepc := rfl
@[simp] theorem RvState.advance_cycle (p : RvState) (len : DWord) : (p.advance len).cycle = p.cycle := rfl
@[simp] theorem RvState.advance_reservation (p : RvState) (len : DWord) :
    (p.advance len).reservation = p.reservation := rfl
@[simp] theorem RvState.advance_params (p : RvState) (len : DWord) : (p.advance len).params = p.params := rfl
@[simp] theorem RvState.advance_mem (p : RvState) (len : DWord) : (p.advance len).mem = p.mem := rfl
@[simp] theorem RvState.advance_stored (p : RvState) (len : DWord) : (p.advance len).stored = p.stored := rfl
@[simp] theorem RvState.advance_draws (p : RvState) (len : DWord) : (p.advance len).draws = p.draws := rfl
@[simp] theorem RvState.put_x (p : RvState) (a : Nat) (v : BitVec w) : (p.put a v).x = p.x := rfl
@[simp] theorem RvState.put_pc (p : RvState) (a : Nat) (v : BitVec w) : (p.put a v).pc = p.pc := rfl
@[simp] theorem RvState.put_priv (p : RvState) (a : Nat) (v : BitVec w) : (p.put a v).priv = p.priv := rfl
@[simp] theorem RvState.put_mie (p : RvState) (a : Nat) (v : BitVec w) : (p.put a v).mie = p.mie := rfl
@[simp] theorem RvState.put_mpie (p : RvState) (a : Nat) (v : BitVec w) : (p.put a v).mpie = p.mpie := rfl
@[simp] theorem RvState.put_mpp (p : RvState) (a : Nat) (v : BitVec w) : (p.put a v).mpp = p.mpp := rfl
@[simp] theorem RvState.put_mepc (p : RvState) (a : Nat) (v : BitVec w) : (p.put a v).mepc = p.mepc := rfl
@[simp] theorem RvState.put_sie (p : RvState) (a : Nat) (v : BitVec w) : (p.put a v).sie = p.sie := rfl
@[simp] theorem RvState.put_spie (p : RvState) (a : Nat) (v : BitVec w) : (p.put a v).spie = p.spie := rfl
@[simp] theorem RvState.put_spp (p : RvState) (a : Nat) (v : BitVec w) : (p.put a v).spp = p.spp := rfl
@[simp] theorem RvState.put_sepc (p : RvState) (a : Nat) (v : BitVec w) : (p.put a v).sepc = p.sepc := rfl
@[simp] theorem RvState.put_cycle (p : RvState) (a : Nat) (v : BitVec w) : (p.put a v).cycle = p.cycle := rfl
@[simp] theorem RvState.put_reservation (p : RvState) (a : Nat) (v : BitVec w) :
    (p.put a v).reservation = p.reservation := rfl
@[simp] theorem RvState.put_params (p : RvState) (a : Nat) (v : BitVec w) : (p.put a v).params = p.params := rfl
@[simp] theorem RvState.put_draws (p : RvState) (a : Nat) (v : BitVec w) : (p.put a v).draws = p.draws := rfl
@[simp] theorem RvState.afterStore_x (p : RvState) (a n : Nat) :
    (p.afterStore a n).x = p.x := by unfold RvState.afterStore; split <;> rfl
@[simp] theorem RvState.afterStore_pc (p : RvState) (a n : Nat) :
    (p.afterStore a n).pc = p.pc := by unfold RvState.afterStore; split <;> rfl
@[simp] theorem RvState.afterStore_priv (p : RvState) (a n : Nat) :
    (p.afterStore a n).priv = p.priv := by unfold RvState.afterStore; split <;> rfl
@[simp] theorem RvState.afterStore_mie (p : RvState) (a n : Nat) :
    (p.afterStore a n).mie = p.mie := by unfold RvState.afterStore; split <;> rfl
@[simp] theorem RvState.afterStore_mpie (p : RvState) (a n : Nat) :
    (p.afterStore a n).mpie = p.mpie := by unfold RvState.afterStore; split <;> rfl
@[simp] theorem RvState.afterStore_mpp (p : RvState) (a n : Nat) :
    (p.afterStore a n).mpp = p.mpp := by unfold RvState.afterStore; split <;> rfl
@[simp] theorem RvState.afterStore_mepc (p : RvState) (a n : Nat) :
    (p.afterStore a n).mepc = p.mepc := by unfold RvState.afterStore; split <;> rfl
@[simp] theorem RvState.afterStore_sie (p : RvState) (a n : Nat) :
    (p.afterStore a n).sie = p.sie := by unfold RvState.afterStore; split <;> rfl
@[simp] theorem RvState.afterStore_spie (p : RvState) (a n : Nat) :
    (p.afterStore a n).spie = p.spie := by unfold RvState.afterStore; split <;> rfl
@[simp] theorem RvState.afterStore_spp (p : RvState) (a n : Nat) :
    (p.afterStore a n).spp = p.spp := by unfold RvState.afterStore; split <;> rfl
@[simp] theorem RvState.afterStore_sepc (p : RvState) (a n : Nat) :
    (p.afterStore a n).sepc = p.sepc := by unfold RvState.afterStore; split <;> rfl
@[simp] theorem RvState.afterStore_cycle (p : RvState) (a n : Nat) :
    (p.afterStore a n).cycle = p.cycle := by unfold RvState.afterStore; split <;> rfl
@[simp] theorem RvState.afterStore_params (p : RvState) (a n : Nat) :
    (p.afterStore a n).params = p.params := by unfold RvState.afterStore; split <;> rfl
@[simp] theorem RvState.afterStore_mem (p : RvState) (a n : Nat) :
    (p.afterStore a n).mem = p.mem := by unfold RvState.afterStore; split <;> rfl
@[simp] theorem RvState.afterStore_stored (p : RvState) (a n : Nat) :
    (p.afterStore a n).stored = p.stored := by unfold RvState.afterStore; split <;> rfl

end Sys2Proof.Machine
end

