-- ==== Sys2Proof/Laws/Parts.lean ====
section
/-! SUPPORT. P2 to P6: one lemma for each shared operation that says what it can do: the register files, the status
words, PC updates, and how a body's answer becomes a step's. -/

namespace Sys2Proof.Machine

/-! ### Bits -/

/-- A displacement field and `k` zero bits, sign-extended. -/
theorem signExtend_append_zero (v : BitVec m) (k n : Nat) (hm : 0 < m) :
    (v ++ 0#k).signExtend n = v.signExtend n <<< k := by
  apply BitVec.eq_of_getLsbD_eq
  intro i hi
  rw [BitVec.getLsbD_signExtend, BitVec.getLsbD_shiftLeft, BitVec.getLsbD_signExtend, BitVec.getLsbD_append,
    BitVec.msb_append]
  by_cases h1 : i < k
  · simp [h1, hi]; omega
  · by_cases h2 : i < m + k
    · have h3 : i - k < m := by omega
      have h4 : i - k < n := by omega
      simp [h1, h2, h3, h4, hi]
    · have h3 : ¬ i - k < m := by omega
      have h4 : i - k < n := by omega
      simp [h1, h2, h3, h4, hi]; omega

/-- An address with its low two bits cleared. -/
theorem clear_low_two (v : Word) : v &&& 0xFFFFFFFC#32 = v.extractLsb' 2 30 ++ 0#2 := by
  apply BitVec.eq_of_getLsbD_eq
  intro i hi
  rw [BitVec.getLsbD_and, BitVec.getLsbD_append, BitVec.getLsbD_extractLsb']
  have h : ∀ i, i < 32 → (0xFFFFFFFC#32).getLsbD i = decide (2 ≤ i) := by decide
  rw [h i hi]
  by_cases h1 : i < 2
  · simp [h1]
  · have h3 : i - 2 < 30 := by omega
    simp [h1, h3, show 2 ≤ i by omega, show 2 + (i - 2) = i by omega]

/-- A target with its low bit cleared. -/
theorem clear_low_one (v : Word) : v &&& 0xFFFFFFFE#32 = v.extractLsb' 1 31 ++ 0#1 := by
  apply BitVec.eq_of_getLsbD_eq
  intro i hi
  rw [BitVec.getLsbD_and, BitVec.getLsbD_append, BitVec.getLsbD_extractLsb']
  have h : ∀ i, i < 32 → (0xFFFFFFFE#32).getLsbD i = decide (1 ≤ i) := by decide
  rw [h i hi]
  by_cases h1 : i < 1
  · simp [h1]
  · have h3 : i - 1 < 31 := by omega
    simp [h1, h3, show 1 ≤ i by omega, show 1 + (i - 1) = i by omega]

/-- A left shift as a product. -/
theorem shiftLeft_eq_ofNat (v : BitVec w) (n : Nat) : v <<< n = BitVec.ofNat w (v.toNat * 2 ^ n) := by
  apply BitVec.eq_of_toNat_eq
  rw [BitVec.toNat_shiftLeft, BitVec.toNat_ofNat, Nat.shiftLeft_eq]

/-- A logical right shift as a quotient. -/
theorem ushiftRight_eq_ofNat (v : BitVec w) (n : Nat) : v >>> n = BitVec.ofNat w (v.toNat / 2 ^ n) := by
  apply BitVec.eq_of_toNat_eq
  rw [BitVec.toNat_ushiftRight, BitVec.toNat_ofNat, Nat.shiftRight_eq_div_pow, Nat.mod_eq_of_lt]
  exact Nat.lt_of_le_of_lt (Nat.div_le_self _ _) v.isLt

/-- The low two bits of an address are clear when it is a multiple of four. -/
theorem low_bits_zero (v : Word) : v.extractLsb' 0 2 = 0#2 ↔ v.toNat % 4 = 0 := by
  rw [← BitVec.toNat_inj]; simp [BitVec.extractLsb'_toNat]

/-- An address predicate held as regions. -/
theorem inRegions_iff (l : List Region) (a : Nat) : inRegions l a = true ↔ InRegion l a := by
  simp [inRegions, InRegion, Region.has]

/-! ### Register files -/

/-- A register file after a write. -/
theorem getElem_set_bv {α : Type} (r : Vector α (2 ^ k)) (n j : BitVec k) (v : α) :
    (r.set n.toNat v n.isLt)[j.toNat]'j.isLt = if j = n then v else r[j.toNat]'j.isLt := by
  by_cases h : j = n
  · subst h; simp
  · have : n.toNat ≠ j.toNat := fun e => h (BitVec.eq_of_toNat_eq e.symm)
    simp [h, Vector.getElem_set_ne, this]

theorem ArmState.reg_setReg (a : ArmState) (n k : BitVec 4) (v : Word) :
    (a.setReg n v).reg k = if k = n then v else a.reg k := getElem_set_bv a.r n k v

theorem PpcState.reg_setReg (p : PpcState) (n k : BitVec 5) (v : Word) :
    (p.setReg n v).reg k = if k = n then v else p.reg k := getElem_set_bv p.gpr n k v

/-- r[0] stays zero (spec/10_state.md R44). -/
theorem SparcState.reg_setReg (p : SparcState) (n k : BitVec 5) (v : Word) :
    (p.setReg n v).reg k = if k = n then (if n = 0#5 then 0 else v) else p.reg k := by
  unfold SparcState.setReg SparcState.reg
  by_cases hn : n = 0#5
  · subst hn
    by_cases hk : k = 0#5 <;> simp [hk]
  · simp only [if_neg hn]
    have := getElem_set_bv p.r n k v
    by_cases hk : k = n
    · subst hk; simp [hn]
    · simp only [if_neg hk] at this ⊢
      rw [this]

/-- GPR[0] stays zero (spec/10_state.md R52). -/
theorem MipsState.reg_setReg (p : MipsState) (n k : BitVec 5) (v : Word) :
    (p.setReg n v).reg k = if k = n then (if n = 0#5 then 0 else v) else p.reg k := by
  unfold MipsState.setReg MipsState.reg
  by_cases hn : n = 0#5
  · subst hn
    by_cases hk : k = 0#5 <;> simp [hk]
  · simp only [if_neg hn]
    have := getElem_set_bv p.gpr n k v
    by_cases hk : k = n
    · subst hk; simp [hn]
    · simp only [if_neg hk] at this ⊢
      rw [this]

/-- x[0] stays zero; another register reads back cut to `m` bits (spec/10_state.md R57). -/
theorem RvState.reg_setReg (p : RvState) (i k : BitVec 5) (v : BitVec n) (m : Nat) :
    (p.setReg i v).reg m k =
      if k = i then (if i = 0#5 then 0 else (v.setWidth 64).setWidth m) else p.reg m k := by
  unfold RvState.setReg RvState.reg
  by_cases hn : i = 0#5
  · subst hn
    by_cases hk : k = 0#5 <;> simp [hk]
  · simp only [if_neg hn]
    have := getElem_set_bv p.x i k (v.setWidth 64)
    by_cases hk : k = i
    · subst hk; simp [hn]
    · simp only [if_neg hk] at this ⊢
      rw [this]

theorem RvState.xlen_cases (p : RvState) : p.xlen = 32 ∨ p.xlen = 64 := by
  unfold RvState.xlen; split <;> simp

theorem setWidth_64_setWidth (v : BitVec n) (h : n ≤ 64) : (v.setWidth 64).setWidth n = v := by
  apply BitVec.eq_of_toNat_eq
  have h1 : v.toNat < 2 ^ n := v.isLt
  have h2 : v.toNat < 2 ^ 64 := Nat.lt_of_lt_of_le h1 (Nat.pow_le_pow_right (by decide) h)
  rw [BitVec.toNat_setWidth, BitVec.toNat_setWidth, Nat.mod_eq_of_lt h2, Nat.mod_eq_of_lt h1]

/-- A register of XLEN bits reads back. -/
theorem RvState.reg_setReg_xlen (p : RvState) (i k : BitVec 5) (v : BitVec p.xlen) :
    (p.setReg i v).reg p.xlen k = if k = i then (if i = 0#5 then 0 else v) else p.reg p.xlen k := by
  rw [RvState.reg_setReg, setWidth_64_setWidth v (by rcases p.xlen_cases with h | h <;> omega)]

/-! ### P2 -/

/-- A failed condition (spec/41_arm.md R330). -/
theorem armDo_of_fails {c : ArmCond} {body : ArmState → Body ArmState} {s : State} (h : s.arm.passes c = false) :
    armDo c body s = .next { s with arm := s.arm.advance } := by
  simp [armDo, h]

/-- A condition that passes. -/
theorem armDo_of_passes {c : ArmCond} {body : ArmState → Body ArmState} {s : State} (h : s.arm.passes c = true) :
    armDo c body s = finish s (fun a => { s with arm := a }) (body s.arm) := by
  simp [armDo, h]

theorem armDo_of_ok {c : ArmCond} {body : ArmState → Body ArmState} {s : State} {b : ArmState}
    (h : s.arm.passes c = true) (hb : body s.arm = .ok b) : armDo c body s = .next { s with arm := b } := by
  rw [armDo_of_passes h, hb]; rfl

theorem armDo_of_refuses {c : ArmCond} {body : ArmState → Body ArmState} {s : State} {r : Refusal}
    (h : s.arm.passes c = true) (hb : body s.arm = .error (.refuses r)) : armDo c body s = .refused r := by
  rw [armDo_of_passes h, hb]; rfl

/-- A body that passes may be replaced by what it answers here. -/
theorem armDo_const {c : ArmCond} (body : ArmState → Body ArmState) {s : State} :
    armDo c body s = armDo c (fun _ => body s.arm) s := rfl

@[simp] theorem ArmState.pc_advance (a : ArmState) : a.advance.pc = a.pc + 4 := by
  simp [ArmState.advance, ArmState.pc, ArmState.reg_setReg]

theorem ArmState.reg_advance (a : ArmState) (n : BitVec 4) (h : n ≠ 15#4) : a.advance.reg n = a.reg n := by
  simp [ArmState.advance, ArmState.reg_setReg, h]

/-- N, Z, C and V written; the rest of CPSR as before (spec/10_state.md R33). -/
theorem ArmState.setNZCV_flags (a : ArmState) (n z c v : Bool) :
    (a.setNZCV n z c v).n = n ∧ (a.setNZCV n z c v).z = z ∧ (a.setNZCV n z c v).c = c ∧
      (a.setNZCV n z c v).v = v ∧ ∀ k, k < 28 → (a.setNZCV n z c v).cpsr.getLsbD k = a.cpsr.getLsbD k := by
  unfold ArmState.setNZCV ArmState.n ArmState.z ArmState.c ArmState.v
  refine ⟨?_, ?_, ?_, ?_, fun k hk => ?_⟩
  all_goals simp only [getLsbD_putBit _ _ _ _ (show 31 < 32 by decide),
    getLsbD_putBit _ _ _ _ (show 30 < 32 by decide), getLsbD_putBit _ _ _ _ (show 29 < 32 by decide),
    getLsbD_putBit _ _ _ _ (show 28 < 32 by decide)]
  all_goals first | rfl | skip
  have h1 : k ≠ 31 := by omega
  have h2 : k ≠ 30 := by omega
  have h3 : k ≠ 29 := by omega
  have h4 : k ≠ 28 := by omega
  simp [h1, h2, h3, h4]

/-- What the S bit writes of a result. -/
theorem ArmState.flagged_setResultFlags (a : ArmState) (r : Word) (c v : Bool) :
    ArmState.Flagged a (a.setResultFlags r c v) r (c = true) (v = true) := by
  obtain ⟨h1, h2, h3, h4, h5⟩ := ArmState.setNZCV_flags a r.msb (r == 0) c v
  refine ⟨h1, ?_, ?_, ?_, h5⟩
  · rw [show (a.setResultFlags r c v).z = (r == 0) from h2]; simp
  · rw [show (a.setResultFlags r c v).c = c from h3]
  · rw [show (a.setResultFlags r c v).v = v from h4]

/-- A value written to the PC (spec/10_state.md R32). -/
theorem ArmState.branchTo_eq (a : ArmState) (v : Word) :
    a.branchTo v = if v.toNat % 4 = 0 then .ok (a.setReg 15 v) else .error (.refuses .armPcLowBits) := by
  unfold ArmState.branchTo
  simp only [low_bits_zero]

/-! ### P3 -/

theorem ppcDo_of_ok {body : PpcState → Body PpcState} {s : State} {q : PpcState} (h : body s.ppc = .ok q) :
    ppcDo body s = .next { s with ppc := q } := by
  unfold ppcDo finish; rw [h]

/-- CR0 written (spec/42_powerpc.md R391). -/
theorem PpcState.recorded_setCr0 (p q : PpcState) (r : Word) (hcr : q.cr = p.cr) :
    PpcState.Recorded p (q.setCr0 r) r := by
  have e : ∀ k, (q.setCr0 r).cr.getLsbD k =
      if k = 28 then q.so else if k = 29 then (r == 0) else if k = 30 then (!r.msb && r != 0)
      else if k = 31 then r.msb else p.cr.getLsbD k := by
    intro k
    unfold PpcState.setCr0
    simp only [getLsbD_putBit _ _ _ _ (show 31 < 32 by decide),
      getLsbD_putBit _ _ _ _ (show 30 < 32 by decide), getLsbD_putBit _ _ _ _ (show 29 < 32 by decide),
      getLsbD_putBit _ _ _ _ (show 28 < 32 by decide), hcr]
  have hz : r = 0 ↔ r.toInt = 0 := by
    rw [← BitVec.toInt_inj]; simp
  have hm : r.msb = true ↔ r.toInt < 0 := by
    rw [BitVec.msb_eq_toInt]; simp
  refine ⟨?_, ?_, ?_, ?_, fun k hk => ?_⟩
  · show (q.setCr0 r).cr.getLsbD 31 = true ↔ _
    rw [e]; simpa using hm
  · show (q.setCr0 r).cr.getLsbD 30 = true ↔ _
    rw [e]
    simp only [show ¬ (30 = 28) by decide, show ¬ (30 = 29) by decide, if_false, if_true, Bool.and_eq_true,
      Bool.not_eq_true', bne_iff_ne, ne_eq]
    rw [hz, ← Bool.not_eq_true, hm]
    omega
  · show (q.setCr0 r).cr.getLsbD 29 = true ↔ _
    rw [e]; simp
  · show (q.setCr0 r).cr.getLsbD 28 = _
    rw [e]; rfl
  · rw [e]
    have h1 : k ≠ 31 := by omega
    have h2 : k ≠ 30 := by omega
    have h3 : k ≠ 29 := by omega
    have h4 : k ≠ 28 := by omega
    simp [h1, h2, h3, h4]

/-- MASK bit by bit (spec/42_powerpc.md R403). -/
theorem getLsbD_ppcMask (mb me : BitVec 5) (k : Nat) (hk : k < 32) :
    (ppcMask mb me).getLsbD k = inMask mb.toNat me.toNat (31 - k) := by
  have fold : ∀ (l : List Nat) (m : Word),
      (l.foldl (fun m i => if inMask mb.toNat me.toNat (31 - i) then m ||| (1#32 <<< i) else m) m).getLsbD k =
        (m.getLsbD k || (decide (k ∈ l) && inMask mb.toNat me.toNat (31 - k))) := by
    intro l
    induction l with
    | nil => simp
    | cons i t ih =>
      intro m
      rw [List.foldl_cons, ih]
      by_cases hi : i = k
      · subst hi
        by_cases hm : inMask mb.toNat me.toNat (31 - i) = true
        · simp [hm, hk]
        · simp [hm]
      · have : (if inMask mb.toNat me.toNat (31 - i) = true then m ||| 1#32 <<< i else m).getLsbD k = m.getLsbD k := by
          split
          · rw [BitVec.getLsbD_or, BitVec.getLsbD_shiftLeft]
            by_cases hki : k < i
            · simp [hki]
            · have : k - i ≠ 0 := by omega
              simp [hki, this]
          · rfl
        rw [this]
        simp [Ne.symm hi]
  have h := fold (List.range 32) 0
  rw [show (0 : Word).getLsbD k = false from BitVec.getLsbD_zero] at h
  unfold ppcMask
  simpa only [Bool.false_or, List.mem_range, hk, decide_true, Bool.true_and] using h

/-- ROTL bit by bit (spec/42_powerpc.md R403). -/
theorem getLsbD_rotl (v : Word) (n : BitVec 5) (i : Nat) (hi : i < 32) :
    (rotl v n).getLsbD (31 - i) = v.getLsbD (31 - (i + n.toNat) % 32) := by
  unfold rotl
  have := n.isLt
  rw [BitVec.getLsbD_rotateLeft, Nat.mod_eq_of_lt this, Bool.cond_eq_ite]
  split
  · rename_i h
    have := of_decide_eq_true h
    congr 1; omega
  · rename_i h
    have : ¬ (31 - i < n.toNat) := fun e => h (decide_eq_true e)
    rw [decide_eq_true (by omega), Bool.true_and]
    congr 1; omega

/-! ### P4 -/

theorem sparcDo_of_ok {body : SparcState → Body SparcState} {s : State} {q : SparcState} (h : body s.sparc = .ok q) :
    sparcDo body s = .next { s with sparc := q.advance } := by
  unfold sparcDo finish; rw [h]

/-- A control transfer outside a delay slot (spec/43_sparc.md R463). -/
theorem sparcTransferDo_eq (body : SparcState → Body SparcState) (s : State) :
    sparcTransferDo body s =
      if s.sparc.inDelaySlot = true then .refused .sparcCtiInSlot
      else finish s (fun p => { s with sparc := p }) (body s.sparc) := rfl

/-- The condition codes written; the rest of PSR as before (spec/10_state.md R47). -/
theorem SparcState.setIcc_codes (p : SparcState) (n z v c : Bool) :
    (p.setIcc n z v c).n = n ∧ (p.setIcc n z v c).z = z ∧ (p.setIcc n z v c).v = v ∧ (p.setIcc n z v c).c = c ∧
      ∀ k, k < 20 ∨ 24 ≤ k → (p.setIcc n z v c).psr.getLsbD k = p.psr.getLsbD k := by
  unfold SparcState.setIcc SparcState.n SparcState.z SparcState.v SparcState.c
  refine ⟨?_, ?_, ?_, ?_, fun k hk => ?_⟩
  all_goals simp only [getLsbD_putBit _ _ _ _ (show 23 < 32 by decide),
    getLsbD_putBit _ _ _ _ (show 22 < 32 by decide), getLsbD_putBit _ _ _ _ (show 21 < 32 by decide),
    getLsbD_putBit _ _ _ _ (show 20 < 32 by decide)]
  all_goals first | rfl | skip
  have h1 : k ≠ 23 := by omega
  have h2 : k ≠ 22 := by omega
  have h3 : k ≠ 21 := by omega
  have h4 : k ≠ 20 := by omega
  simp [h1, h2, h3, h4]

/-- ADDcc's printed carry is the carry out of the sum (spec/43_sparc.md R454). -/
theorem sparc_carry (a b : Word) :
    ((a.msb && b.msb) || (!(a + b).msb && (a.msb || b.msb))) = carryFrom a b false := by
  unfold carryFrom
  rw [BitVec.msb_eq_decide, BitVec.msb_eq_decide, BitVec.msb_eq_decide, BitVec.toNat_add]
  have := a.isLt
  have := b.isLt
  rw [Bool.eq_iff_iff]
  simp only [Bool.or_eq_true, Bool.and_eq_true, Bool.not_eq_true', decide_eq_true_eq, decide_eq_false_iff_not,
    Bool.toNat_false]
  omega

/-- SUBcc's printed carry is the borrow of the difference (spec/43_sparc.md R456). -/
theorem sparc_borrow (a b : Word) :
    ((!a.msb && b.msb) || ((a - b).msb && (!a.msb || b.msb))) = borrowFrom a b := by
  unfold borrowFrom
  rw [BitVec.msb_eq_decide, BitVec.msb_eq_decide, BitVec.msb_eq_decide, BitVec.toNat_sub]
  have := a.isLt
  have := b.isLt
  rw [Bool.eq_iff_iff]
  simp only [Bool.or_eq_true, Bool.and_eq_true, Bool.not_eq_true', decide_eq_true_eq, decide_eq_false_iff_not]
  omega

/-- ADDcc's printed overflow is the sign test. -/
theorem sparc_overflow_add (a b r : Word) :
    ((a.msb && b.msb && !r.msb) || (!a.msb && !b.msb && r.msb)) = overflowAdd a b r := by
  unfold overflowAdd
  cases a.msb <;> cases b.msb <;> cases r.msb <;> rfl

/-- SUBcc's printed overflow is the sign test. -/
theorem sparc_overflow_sub (a b r : Word) :
    ((a.msb && !b.msb && !r.msb) || (!a.msb && b.msb && r.msb)) = overflowSub a b r := by
  unfold overflowSub
  cases a.msb <;> cases b.msb <;> cases r.msb <;> rfl

/-! ### P5 -/

theorem mipsDo_of_ok {body : MipsState → Body MipsState} {s : State} {q : MipsState} (h : body s.mips = .ok q) :
    mipsDo body s = .next { s with mips := q.advance } := by
  unfold mipsDo finish; rw [h]

theorem getLsbD_lowMask (n k : Nat) (hk : k < 32) : (lowMask n).getLsbD k = decide (k < n) := by
  unfold lowMask
  rw [BitVec.getLsbD_ofNat]
  simp [hk, Nat.testBit_two_pow_sub_one]

/-- What the end of an instruction that is no branch does (spec/44_mips32.md R530). -/
theorem MipsState.advances_advance {p q : MipsState} (h1 : q.pc = p.pc) (h2 : q.delayed = p.delayed)
    (h3 : q.isaMode = p.isaMode) : MipsState.Advances p q.advance := by
  unfold MipsState.Advances MipsState.advance
  rw [h2]
  cases h : p.delayed with
  | none => exact ⟨rfl, by simp [h1], h3⟩
  | some d => exact ⟨rfl, rfl, by simp [h3]⟩

@[simp] theorem MipsState.reg_advance (p : MipsState) (n : BitVec 5) : p.advance.reg n = p.reg n := by
  unfold MipsState.reg MipsState.advance; cases p.delayed <;> rfl
@[simp] theorem MipsState.mem_advance (p : MipsState) : p.advance.mem = p.mem := by
  unfold MipsState.advance; cases p.delayed <;> rfl
@[simp] theorem MipsState.params_advance (p : MipsState) : p.advance.params = p.params := by
  unfold MipsState.advance; cases p.delayed <;> rfl

/-! ### P6 -/

theorem RvState.accessFault_eq_false (p : RvState) (kind : RvAccess) (a n : Nat) (hn : 0 < n) :
    p.accessFault kind a n = false ↔ RvState.Allows p kind a n := by
  unfold RvState.accessFault RvState.Allows
  rw [← Bool.not_eq_true]
  simp only [List.any_eq_true, Bool.and_eq_true, beq_iff_eq, not_exists, not_and]
  refine forall_congr' fun f => forall_congr' fun _ => forall_congr' fun _ => ?_
  cases f.size with
  | none => simp [anyByte, Region.has]
  | some k =>
    simp only [reduceCtorEq, Option.some.injEq, false_or, Bool.and_eq_true, beq_iff_eq, Region.has,
      decide_eq_true_eq, not_and]
    constructor
    · rintro h j _ ⟨rfl, rfl⟩
      simpa using h rfl
    · rintro h rfl
      simpa using h 0 hn ⟨rfl, rfl⟩

theorem RvState.load_of_allows (w : Nat) (p : RvState) (a : Nat) (hw : 0 < w / 8)
    (h : RvState.Allows p .load a (w / 8)) : p.load w a = .ok (p.mem.read .little p.top w a) := by
  unfold RvState.load
  rw [(RvState.accessFault_eq_false _ _ _ _ hw).2 h]; rfl

theorem RvState.load_of_not_allows (w : Nat) (p : RvState) (a : Nat) (hw : 0 < w / 8)
    (h : ¬ RvState.Allows p .load a (w / 8)) : p.load w a = .error (.raises (.rvAccessFault .load a)) := by
  unfold RvState.load
  rw [if_pos]
  rw [← RvState.accessFault_eq_false _ _ _ _ hw] at h
  simpa using h

/-- Where the bytes of an access and of the reservation share none (spec/92_eei_decisions.md D22). -/
theorem RvState.overlapsReservation_eq_false (p : RvState) (a n : Nat) :
    p.overlapsReservation a n = false ↔ p.Disjoint a n := by
  unfold RvState.overlapsReservation RvState.Disjoint
  cases h : p.reservation with
  | none => simp
  | some r =>
    rw [← Bool.not_eq_true]
    simp only [anyByte, List.any_eq_true, List.mem_range, beq_iff_eq, Option.some.injEq]
    constructor
    · rintro h r' rfl j k hj hk e
      exact h ⟨j, hj, k, hk, e⟩
    · rintro h ⟨j, hj, k, hk, e⟩
      exact h r rfl j k hj hk e

/-- A store that the spec settles, or that the parameter `unsettled` completes, is what its body answers. -/
theorem RvState.storeSettled_of (p : RvState) (a n : Nat) (b : Body RvState) (h : p.Settled a n) :
    p.storeSettled a n b = b := by
  unfold RvState.storeSettled
  rw [if_neg]
  rintro ⟨h1, h2⟩
  rw [(RvState.overlapsReservation_eq_false _ _ _).2 (h h1)] at h2
  exact absurd h2 (by decide)

/-- A store that the spec decides to refuse (R61, D22). -/
theorem RvState.storeSettled_of_not (p : RvState) (a n : Nat) (b : Body RvState) (h : ¬ p.Settled a n) :
    p.storeSettled a n b = .error (.refuses .rvReservedStore) := by
  unfold RvState.storeSettled
  rw [if_pos]
  have h1 : p.params.unsettled = .refuse ∧ ¬ p.Disjoint a n := by simpa [RvState.Settled] using h
  rw [← RvState.overlapsReservation_eq_false, Bool.not_eq_false] at h1
  exact h1

theorem RvState.store_of_allows (p : RvState) (a : Nat) (v : BitVec w) (hw : 0 < w / 8) (hs : p.Settled a (w / 8))
    (h : RvState.Allows p .store a (w / 8)) : p.store a v = .ok ((p.put a v).afterStore a (w / 8)) := by
  unfold RvState.store
  rw [RvState.storeSettled_of _ _ _ _ hs, (RvState.accessFault_eq_false _ _ _ _ hw).2 h]; rfl

theorem RvState.store_of_not_allows (p : RvState) (a : Nat) (v : BitVec w) (hw : 0 < w / 8)
    (hs : p.Settled a (w / 8)) (h : ¬ RvState.Allows p .store a (w / 8)) :
    p.store a v = .error (.raises (.rvAccessFault .store a)) := by
  unfold RvState.store
  rw [RvState.storeSettled_of _ _ _ _ hs, if_pos]
  rw [← RvState.accessFault_eq_false _ _ _ _ hw] at h
  simpa using h

/-- A store that the spec decides to refuse stores nothing. -/
theorem RvState.store_of_unsettled (p : RvState) (a : Nat) (v : BitVec w) (hs : ¬ p.Settled a (w / 8)) :
    p.store a v = .error (.refuses .rvReservedStore) := by
  unfold RvState.store
  rw [RvState.storeSettled_of_not _ _ _ _ hs]

/-- What a store can do to the reservation (notes/assumptions/31.md): nothing where it does not meet it. -/
theorem RvState.afterStore_cases (p : RvState) (a n : Nat) :
    (p.afterStore a n = p ∧ p.overlapsReservation a n = false) ∨
    ∃ r, (r = p.reservation ∨ r = none) ∧
      p.afterStore a n = { p with reservation := r, draws := p.draws + 1 } := by
  unfold RvState.afterStore
  cases h : p.overlapsReservation a n
  · exact .inl ⟨rfl, rfl⟩
  · refine .inr ⟨_, ?_, rfl⟩
    show (if _ then _ else _) = _ ∨ _
    split
    · exact .inr rfl
    · exact .inl rfl

/-- The legal targets: multiples of two with C, of four without (spec/45_riscv.md R628). -/
theorem RvState.targetOk_iff (p : RvState) (v : DWord) :
    p.targetOk v = true ↔ v.toNat % (if p.params.extC then 2 else 4) = 0 := by
  unfold RvState.targetOk
  have h0 : v.getLsbD 0 = decide (v.toNat % 2 = 1) := by
    simp [BitVec.getLsbD, Nat.testBit_zero]
  have h1 : v.getLsbD 1 = decide (v.toNat / 2 % 2 = 1) := by
    simp [BitVec.getLsbD, Nat.testBit_succ, Nat.testBit_zero]
  rw [h0, h1]
  cases p.params.extC
  · simp
    omega
  · simp

theorem RvState.jump_eq (p : RvState) (v : DWord) :
    p.jump v = if p.targetOk v = true then .ok { p with pc := p.cut v } else .error (.refuses .rvMisalignedTarget) := by
  rfl

theorem rvDo_of_ok {present : RvParams → Bool} {len : DWord} {body : RvState → Body RvState} {s : State} {q : RvState}
    (hp : present s.rv.params = true) (h : body s.rv = .ok q) :
    rvDo present len body s = .next { s with rv := q.advance len } := by
  unfold rvDo finish
  rw [if_pos hp, h]

theorem rvJumpDo_of_ok {present : RvParams → Bool} {body : RvState → Body RvState} {s : State} {q : RvState}
    (hp : present s.rv.params = true) (h : body s.rv = .ok q) :
    rvJumpDo present body s = .next { s with rv := q } := by
  unfold rvJumpDo finish
  rw [if_pos hp, h]

theorem RvState.cut_cut (p : RvState) (v : DWord) : p.cut (p.cut v) = p.cut v := by
  unfold RvState.cut; split <;> simp

end Sys2Proof.Machine
end

