-- ==== Sys2Proof/Laws/X86.lean ====
section
/-! SUPPORT. P1: one lemma for each shared operation that says what it can do: register views, the stack pointer, memory
through a segment, push, pop, segment loads, and how a body's answer becomes a step's. -/

namespace Sys2Proof.Machine

/-! ### Registers -/

/-- Bit `i` of a value put at bit `lo`. -/
theorem getLsbD_insertAt (lo : Nat) (v : BitVec w) (old : Word) (i : Nat) (hi : i < 32) :
    (insertAt lo v old).getLsbD i = if lo ≤ i ∧ i < lo + w then v.getLsbD (i - lo) else old.getLsbD i := by
  unfold insertAt
  simp only [BitVec.getLsbD_or, BitVec.getLsbD_and, BitVec.getLsbD_not, BitVec.getLsbD_shiftLeft,
    BitVec.getLsbD_setWidth, BitVec.getLsbD_allOnes, hi, decide_true, Bool.true_and]
  by_cases h1 : lo ≤ i
  · by_cases h2 : i < lo + w
    · have : i - lo < w := by omega
      have : i - lo < 32 := by omega
      have : ¬ i < lo := by omega
      simp [*]
    · have : ¬ i - lo < w := by omega
      have hw : v.getLsbD (i - lo) = false := BitVec.getLsbD_of_ge v _ (by omega)
      simp [*]
  · have : i < lo := by omega
    simp [h1, this]

/-- A register after a write of the register file. -/
theorem X86State.gpr32_set (x : X86State) (n k : BitVec 3) (v : Word) :
    X86State.gpr32 { x with gpr := x.gpr.set n.toNat v n.isLt } k = if k = n then v else x.gpr32 k := by
  unfold X86State.gpr32
  by_cases h : k = n
  · subst h; simp
  · have : n.toNat ≠ k.toNat := fun e => h (BitVec.eq_of_toNat_eq e.symm)
    simp [h, Vector.getElem_set_ne, this]

/-- Bit `i` of register `k` after `reg_w[n] <- v` (spec/10_state.md R21). -/
theorem X86State.getLsbD_writeReg (x : X86State) (n k : BitVec 3) (v : BitVec w) (i : Nat) (hi : i < 32) :
    ((x.writeReg n v).gpr32 k).getLsbD i =
      if inPart w n k i then v.getLsbD (i - (regHome w n).2) else (x.gpr32 k).getLsbD i := by
  have h : (x.writeReg n v).gpr32 k =
      if k = (regHome w n).1 then insertAt (regHome w n).2 v (x.gpr32 (regHome w n).1) else x.gpr32 k :=
    X86State.gpr32_set x _ k _
  rw [h]
  by_cases hk : k = (regHome w n).1
  · subst hk
    rw [if_pos rfl, getLsbD_insertAt _ _ _ _ hi]
    simp [inPart]
  · simp [hk, inPart]

/-- The widths of the register views. -/
abbrev IsWidth (w : Nat) : Prop := w = 8 ∨ w = 16 ∨ w = 32

/-- A view lies inside its 32-bit register. -/
theorem regHome_fits (w : Nat) (n : BitVec 3) (hw : IsWidth w) : (regHome w n).2 + w ≤ 32 := by
  rcases hw with rfl | rfl | rfl <;> simp [regHome] <;> split <;> simp

/-- Bit `j` of a view. -/
theorem X86State.getLsbD_readReg (w : Nat) (x : X86State) (n : BitVec 3) (j : Nat) (hj : j < w) :
    (x.readReg w n).getLsbD j = (x.gpr32 (regHome w n).1).getLsbD ((regHome w n).2 + j) := by
  simp [X86State.readReg, hj]

/-- A written view reads back. -/
theorem X86State.readReg_writeReg (x : X86State) (n : BitVec 3) (v : BitVec w) (hw : IsWidth w) :
    (x.writeReg n v).readReg w n = v := by
  apply BitVec.eq_of_getLsbD_eq
  intro j hj
  have := regHome_fits w n hw
  rw [X86State.getLsbD_readReg _ _ _ _ hj, X86State.getLsbD_writeReg _ _ _ _ _ (by omega)]
  simp [inPart, hj]

/-- A write to a view leaves every other register bit. -/
theorem X86State.keepsRegs_writeReg (x : X86State) (n : BitVec 3) (v : BitVec w) :
    X86State.KeepsRegs [(w, n)] x (x.writeReg n v) := by
  intro k i h
  by_cases hi : i < 32
  · rw [X86State.getLsbD_writeReg _ _ _ _ _ hi, if_neg (h (w, n) (by simp))]
  · rw [BitVec.getLsbD_of_ge _ _ (by omega), BitVec.getLsbD_of_ge _ _ (by omega)]

/-- Where a view starts. -/
theorem regHome_snd (w : Nat) (n : BitVec 3) :
    if w = 8 then (regHome w n).2 = 0 ∨ (regHome w n).2 = 8 else (regHome w n).2 = 0 := by
  unfold regHome
  split <;> split <;> simp_all

/-- Two views of one width share a register and a place, or share no bit. -/
theorem regHome_inj (w : Nat) (n m : BitVec 3) (hw : IsWidth w) (h : regHome w n = regHome w m) : n = m := by
  rcases hw with rfl | rfl | rfl <;> (revert n m; decide)

/-- A write to another view of the same width leaves a view. -/
theorem X86State.readReg_writeReg_ne (x : X86State) (n m : BitVec 3) (v : BitVec w) (hw : IsWidth w) (h : m ≠ n) :
    (x.writeReg n v).readReg w m = x.readReg w m := by
  apply BitVec.eq_of_getLsbD_eq
  intro j hj
  have h1 := regHome_fits w m hw
  rw [X86State.getLsbD_readReg _ _ _ _ hj, X86State.getLsbD_readReg _ _ _ _ hj,
    X86State.getLsbD_writeReg _ _ _ _ _ (by omega), if_neg]
  rintro ⟨e, h2, h3⟩
  apply h
  apply regHome_inj w m n hw
  have h4 := regHome_snd w n
  have h5 := regHome_snd w m
  refine Prod.ext e ?_
  by_cases h8 : w = 8
  · rw [if_pos h8] at h4 h5
    omega
  · rw [if_neg h8] at h4 h5
    omega

/-! ### Sizes -/

/-- A form of width `OperandSize`. -/
theorem X86State.atOpSize_eq (x : X86State) (f : Nat → Body X86State) : x.atOpSize f = f x.opSize := by
  unfold X86State.atOpSize X86State.opSize
  split <;> rfl

/-- `OperandSize` is 16 or 32. -/
theorem X86State.opSize_width (x : X86State) : x.opSize = 16 ∨ x.opSize = 32 := by
  unfold X86State.opSize
  split <;> simp

@[simp] theorem X86State.entered_opSize (x : X86State) (i : Instr) : (x.entered i).opSize = x.opSize := rfl
@[simp] theorem X86State.entered_readReg (x : X86State) (i : Instr) (w : Nat) (n : BitVec 3) :
    (x.entered i).readReg w n = x.readReg w n := rfl
@[simp] theorem X86State.entered_gpr32 (x : X86State) (i : Instr) (n : BitVec 3) :
    (x.entered i).gpr32 n = x.gpr32 n := rfl

/-! ### Memory through a segment -/

theorem anyByte_eq_true (top a n : Nat) (p : Nat → Bool) :
    anyByte top a n p = true ↔ ∃ j, j < n ∧ p ((a + j) % top) = true := by
  simp [anyByte]

theorem X86Access.stores_eq_true (kind : X86Access) :
    X86Access.stores kind = true ↔ kind = .write ∨ kind = .stackWrite := by
  cases kind <;> simp [X86Access.stores]

/-- The modes in which the list of R106 holds (spec/10_state.md R27). -/
theorem X86State.mode_eq_prot (x : X86State) : x.mode = .prot ↔ x.Protected := by
  unfold X86State.mode X86State.Protected
  cases x.pe <;> cases x.vm <;> simp

theorem X86State.pastLimit_eq_true (x : X86State) (g : X86Sreg) (off : Word) (n : Nat) :
    x.pastLimit g off n = true ↔ x.Outside g off n := by
  simp [X86State.pastLimit, anyByte_eq_true, X86State.Outside]

/-- Everything X86_SEG can answer, in the order of its checks (spec/20_memory.md R104, R106, R107). -/
theorem X86State.xseg_eq (x : X86State) (g : X86Sreg) (off : Word) (n : Nat) (kind : X86Access) :
    x.xseg g off n kind =
      if ¬ x.Protected then
        match x.unlistedFault g off n kind with
        | some e => .error e
        | none => .ok (x.linearOf g off n kind)
      else if x.NullRef g then .error (.gp 0)
      else if x.ReadOnly g kind then .error (.gp 0)
      else if x.Outside g off n then .error (limitExc g)
      else if x.Unaligned (x.linearOf g off n kind) n then .error (.ac 0)
      else match x.pageOf (x.linearOf g off n kind) n kind with
        | .fault code => .error (.pf code)
        | .lies b => .ok b := by
  unfold X86State.xseg X86State.ReadOnly
  simp only [X86State.pastLimit_eq_true, X86Access.stores_eq_true, Bool.not_eq_true, ne_eq, X86State.mode_eq_prot]
    <;> rfl

/-- An access that no condition forbids is made. -/
theorem X86State.xseg_of_allows (x : X86State) (g : X86Sreg) (off : Word) (n : Nat) (kind : X86Access)
    (h : x.Allows g off n kind) : x.xseg g off n kind = .ok (x.locate g off n kind) := by
  have key : ∃ a, x.xseg g off n kind = .ok a := by
    rw [X86State.xseg_eq]
    by_cases hp : x.Protected
    · obtain ⟨h1, h2, h3, h4, h5⟩ := h.1 hp
      rw [if_neg (not_not_intro hp), if_neg h1, if_neg h2, if_neg h3, if_neg h4]
      cases e : x.pageOf (x.linearOf g off n kind) n kind with
      | lies b => exact ⟨b, rfl⟩
      | fault c => exact (h5 (by simp [X86State.Faulting, X86PageAnswer.code, e])).elim
    · rw [if_pos hp, h.2 hp]
      exact ⟨_, rfl⟩
  obtain ⟨a, e⟩ := key
  unfold X86State.locate
  rw [e]

/-- An access that is made is one that no condition forbids. -/
theorem X86State.allows_of_xseg (x : X86State) (g : X86Sreg) (off : Word) (n : Nat) (kind : X86Access) (a : Word)
    (h : x.xseg g off n kind = .ok a) : x.Allows g off n kind := by
  rw [X86State.xseg_eq] at h
  by_cases hp : x.Protected
  · rw [if_neg (not_not_intro hp)] at h
    refine ⟨fun _ => ?_, fun e => absurd hp e⟩
    split at h
    · exact absurd h (by simp)
    rename_i h1
    split at h
    · exact absurd h (by simp)
    rename_i h2
    split at h
    · exact absurd h (by simp)
    rename_i h3
    split at h
    · exact absurd h (by simp)
    rename_i h4
    refine ⟨h1, h2, h3, h4, ?_⟩
    unfold X86State.Faulting
    cases e : x.pageOf (x.linearOf g off n kind) n kind with
    | lies b => exact not_not_intro rfl
    | fault c => rw [e] at h; exact absurd h (by simp)
  · rw [if_pos hp] at h
    refine ⟨fun e => absurd e hp, fun _ => ?_⟩
    cases e : x.unlistedFault g off n kind with
    | none => rfl
    | some c => rw [e] at h; exact absurd h (by simp)

/-- X86_SEG looks at its view of the state, the parameters and AlignCheck alone. -/
theorem X86State.xseg_congr {x y : X86State} (hv : y.view = x.view) (hp : y.params = x.params)
    (ha : y.alignCheck = x.alignCheck) (g : X86Sreg) (off : Word) (n : Nat) (kind : X86Access) :
    y.xseg g off n kind = x.xseg g off n kind := by
  cases x
  cases y
  obtain ⟨rfl, rfl, rfl, rfl, rfl, rfl⟩ := X86View.mk.inj hv
  subst hp ha
  rfl

theorem X86State.locate_congr {x y : X86State} (hv : y.view = x.view) (hp : y.params = x.params)
    (ha : y.alignCheck = x.alignCheck) (g : X86Sreg) (off : Word) (n : Nat) (kind : X86Access) :
    y.locate g off n kind = x.locate g off n kind := by
  unfold X86State.locate
  rw [X86State.xseg_congr hv hp ha]

theorem X86State.allows_congr {x y : X86State} (hv : y.view = x.view) (hp : y.params = x.params)
    (ha : y.alignCheck = x.alignCheck) (g : X86Sreg) (off : Word) (n : Nat) (kind : X86Access) :
    y.Allows g off n kind ↔ x.Allows g off n kind := by
  constructor
  · intro h
    exact X86State.allows_of_xseg _ _ _ _ _ _ (X86State.xseg_congr hv hp ha .. ▸ X86State.xseg_of_allows _ _ _ _ _ h)
  · intro h
    exact X86State.allows_of_xseg _ _ _ _ _ _
      ((X86State.xseg_congr hv hp ha ..).trans (X86State.xseg_of_allows _ _ _ _ _ h))

@[simp] theorem X86State.view_entered (x : X86State) (i : Instr) : (x.entered i).view = x.view := rfl
@[simp] theorem X86State.view_draw (x : X86State) (w : Nat) : (x.draw w).2.view = x.view := rfl
@[simp] theorem X86State.view_writeReg (x : X86State) (n : BitVec 3) (v : BitVec w) :
    (x.writeReg n v).view = x.view := rfl
@[simp] theorem X86State.view_setSp (x : X86State) (v : Word) : (x.setSp v).view = x.view := by
  unfold X86State.setSp; split <;> rfl

theorem X86State.readSeg_of_allows (w : Nat) (x : X86State) (g : X86Sreg) (off : Word) (kind : X86Access)
    (h : x.Allows g off (w / 8) kind) :
    x.readSeg w g off kind = .ok (x.mem.read .little top32 w (x.locate g off (w / 8) kind).toNat) := by
  unfold X86State.readSeg
  rw [X86State.xseg_of_allows _ _ _ _ _ h]

theorem X86State.readSeg_of_faults (w : Nat) (x : X86State) (g : X86Sreg) (off : Word) (kind : X86Access) (e : X86Exc)
    (h : x.xseg g off (w / 8) kind = .error e) : x.readSeg w g off kind = .error (.raises (.x86 e)) := by
  unfold X86State.readSeg
  rw [h]

theorem X86State.writeSeg_of_allows (x : X86State) (g : X86Sreg) (off : Word) (kind : X86Access) (v : BitVec w)
    (h : x.Allows g off (w / 8) kind) :
    x.writeSeg g off kind v = .ok (x.store (x.locate g off (w / 8) kind) v) := by
  unfold X86State.writeSeg
  rw [X86State.xseg_of_allows _ _ _ _ _ h]

theorem X86State.writeSeg_of_faults (x : X86State) (g : X86Sreg) (off : Word) (kind : X86Access) (v : BitVec w)
    (e : X86Exc) (h : x.xseg g off (w / 8) kind = .error e) :
    x.writeSeg g off kind v = .error (.raises (.x86 e)) := by
  unfold X86State.writeSeg
  rw [h]

/-- What a store writes (spec/20_memory.md R101). -/
theorem X86State.stored_store (x : X86State) (a : Word) (v : BitVec w) (hw : IsWidth w)
    (h : Memory.wf top32 x.mem) : Memory.Stored .little top32 x.mem (x.store a v).mem a.toNat v := by
  refine ⟨Memory.read_write_same _ _ (by decide) _ _ _ h ?_ ?_, fun b hb =>
    Memory.get_write_other .little top32 (by decide) x.mem a.toNat b v h hb⟩
  · rcases hw with rfl | rfl | rfl <;> decide
  · rcases hw with rfl | rfl | rfl <;> rfl

/-! ### Code bytes -/

/-- A code byte that can be fetched (spec/20_memory.md R109). -/
theorem X86State.codeByte_of_fetchable (x : X86State) (off : Word) (h : x.Fetchable off) :
    x.codeByte off = .ok (x.mem.get (x.codeAt off)) := by
  have := h.2
  unfold X86State.codeByte
  rw [X86State.xseg_of_allows _ _ _ _ _ h.1]
  unfold X86State.codeAt at this ⊢
  simp [this]

/-- A code byte that the program has stored to is refused (spec/20_memory.md R127). -/
theorem X86State.codeByte_of_stored (x : X86State) (off : Word) (h : x.Allows .cs off 1 .fetch)
    (hs : x.codeAt off ∈ x.stored) : x.codeByte off = .error (.refuses .fetchOfStored) := by
  unfold X86State.codeByte
  rw [X86State.xseg_of_allows _ _ _ _ _ h]
  unfold X86State.codeAt at hs
  simp [hs]

/-- The bytes that a fetch finds: those that can be fetched come first. -/
theorem X86State.codeBytes_of_fetchable (x : X86State) : ∀ (n k : Nat) (off : Word), n ≤ k →
    (∀ j, j < n → x.Fetchable (off + BitVec.ofNat 32 j)) →
    x.codeBytes k off =
      (((List.range n).map fun j => x.mem.get (x.codeAt (off + BitVec.ofNat 32 j))) ++
        (x.codeBytes (k - n) (off + BitVec.ofNat 32 n)).1, (x.codeBytes (k - n) (off + BitVec.ofNat 32 n)).2)
  | 0, k, off, _, _ => by simp
  | n + 1, 0, _, h, _ => absurd h (by omega)
  | n + 1, k + 1, off, hk, hf => by
    have next (j : Nat) : off + 1 + BitVec.ofNat 32 j = off + BitVec.ofNat 32 (j + 1) := by
      rw [BitVec.add_assoc]
      congr 1
      apply BitVec.eq_of_toNat_eq
      simp
      omega
    have first := hf 0 (by omega)
    simp only [BitVec.add_zero] at first
    have rest := X86State.codeBytes_of_fetchable x n k (off + 1) (by omega) fun j hj => by
      rw [next]
      exact hf (j + 1) (by omega)
    rw [X86State.codeBytes, X86State.codeByte_of_fetchable x off first]
    simp only [rest, next, List.range_succ_eq_map, List.map_cons, List.map_map, BitVec.add_zero,
      Function.comp_def, List.cons_append, Nat.add_sub_add_right]

/-- A fetch that stops at a byte: what it found, and what stopped it. -/
theorem X86State.codeBytes_of_stop (x : X86State) (n k : Nat) (off : Word) (e : Stop State) (hk : n < k)
    (hf : ∀ j, j < n → x.Fetchable (off + BitVec.ofNat 32 j))
    (he : x.codeByte (off + BitVec.ofNat 32 n) = .error e) :
    x.codeBytes k off = ((List.range n).map fun j => x.mem.get (x.codeAt (off + BitVec.ofNat 32 j)), some e) := by
  rw [X86State.codeBytes_of_fetchable x n k off (by omega) hf]
  obtain ⟨m, hm⟩ : ∃ m, k - n = m + 1 := ⟨k - n - 1, by omega⟩
  rw [hm, X86State.codeBytes, he, List.append_nil]

/-! ### r/m operands -/

theorem X86State.readRM_of_reaches (w : Nat) (x : X86State) (rm : X86RM) (h : x.Reaches w rm .read) :
    x.readRM w rm = .ok (x.operand w rm) := by
  cases rm with
  | reg n => rfl
  | mem m => exact X86State.readSeg_of_allows w x _ _ _ h

/-- A written r/m operand. -/
theorem X86State.writeRM_of_reaches (x : X86State) (rm : X86RM) (v : BitVec w) (h : x.Reaches w rm .write) :
    x.writeRM rm v = .ok (match rm with
      | .reg n => x.writeReg n v
      | .mem m => x.store (x.locate (x.segOf m) (x.ea m) (w / 8) .write) v) := by
  cases rm with
  | reg n => rfl
  | mem m => exact X86State.writeSeg_of_allows x _ _ _ v h

/-! ### The stack -/

theorem X86State.sp_eq (x : X86State) : x.sp = x.topOfStack := by
  unfold X86State.sp X86State.topOfStack
  split <;> simp [X86State.readReg, regHome]

theorem X86State.spPlus_eq (x : X86State) (d : Word) : x.spPlus d = x.stackUp d := by
  unfold X86State.spPlus X86State.stackUp
  split <;> simp [X86State.readReg, regHome]

theorem X86State.straddles_eq_false (x : X86State) (off : Word) (n : Nat) :
    x.straddles off n = false ↔ x.InStack off n := by
  unfold X86State.straddles X86State.InStack
  cases x.stack32 <;> simp

@[simp] theorem X86State.setSp_stack32 (x : X86State) (v : Word) : (x.setSp v).stack32 = x.stack32 := by
  simp [X86State.stack32]

/-- The stack pointer moves no other register bit (spec/10_state.md R22). -/
theorem X86State.keepsRegs_setSp (x : X86State) (v : Word) : X86State.KeepsRegs [x.stackPart] x (x.setSp v) := by
  unfold X86State.setSp X86State.stackPart
  split
  · exact X86State.keepsRegs_writeReg x esp v
  · exact X86State.keepsRegs_writeReg x esp (v.setWidth 16)

/-- The stack pointer reads back, cut to 16 bits on SP. -/
theorem X86State.topOfStack_setSp (x : X86State) (v : Word) :
    (x.setSp v).topOfStack = if x.stack32 then v else (v.setWidth 16).setWidth 32 := by
  rw [← X86State.sp_eq]
  unfold X86State.sp
  rw [X86State.setSp_stack32]
  unfold X86State.setSp
  split
  · rw [X86State.readReg_writeReg _ _ _ (by decide)]
  · rw [X86State.readReg_writeReg _ _ _ (by decide)]

/-- A stack pointer computed from the stack pointer reads back. -/
theorem X86State.topOfStack_setSp_stackUp (x : X86State) (d : Word) :
    (x.setSp (x.stackUp d)).topOfStack = x.stackUp d := by
  rw [X86State.topOfStack_setSp]
  unfold X86State.stackUp
  split
  · rfl
  · simp

/-- The stack pointer depends on the registers and SS alone. -/
theorem X86State.topOfStack_congr {x y : X86State} (h : y.gpr = x.gpr) (g : y.segs = x.segs) :
    y.topOfStack = x.topOfStack := by
  simp [X86State.topOfStack, X86State.stack32, X86State.gpr32, h, g]

theorem X86State.stackUp_congr {x y : X86State} (h : y.gpr = x.gpr) (g : y.segs = x.segs) (d : Word) :
    y.stackUp d = x.stackUp d := by
  simp [X86State.stackUp, X86State.stack32, X86State.gpr32, h, g]

theorem X86State.setSp_gpr_congr {x y : X86State} (h : y.gpr = x.gpr) (g : y.segs = x.segs) (v : Word) :
    (y.setSp v).gpr = (x.setSp v).gpr := by
  unfold X86State.setSp X86State.stack32 X86State.writeReg X86State.gpr32
  rw [g, h]
  split <;> rfl

/-- The stack pointer `d` bytes up, from the top of stack. -/
theorem X86State.stackUp_eq (x : X86State) (d : Word) :
    x.stackUp d =
      if x.stack32 then x.topOfStack + d else ((x.topOfStack + d).setWidth 16).setWidth 32 := by
  unfold X86State.stackUp X86State.topOfStack
  cases x.stack32
  · simp [BitVec.setWidth_add]
  · simp

/-- Two moves of the stack pointer are one. -/
theorem X86State.stackUp_setSp (x : X86State) (d e : Word) :
    (x.setSp (x.stackUp d)).stackUp e = x.stackUp (d + e) := by
  rw [X86State.stackUp_eq, X86State.topOfStack_setSp_stackUp, X86State.setSp_stack32, X86State.stackUp_eq,
    X86State.stackUp_eq]
  cases x.stack32
  · simp [BitVec.setWidth_add, BitVec.add_assoc]
  · simp [BitVec.add_assoc]

/-- A near transfer of control (spec/40_ia32.md R274, R296). -/
theorem X86State.jumpNear_eq (x : X86State) (t : Word) :
    x.jumpNear t = if t.toNat ≤ x.segs.cs.desc.limit.toNat then .ok { x with eip := t }
      else .error (.raises (.x86 (.gp 0))) := by
  unfold X86State.jumpNear
  simp only [BitVec.lt_def]
  split <;> split <;> first | rfl | omega

/-- A push that is allowed stores at the new top of stack and moves the stack pointer there (spec/40_ia32.md R253). -/
theorem X86State.push_of_allows (x : X86State) (v : BitVec w) (h1 : x.InStack (x.pushTo (w / 8)) (w / 8))
    (h2 : x.Allows .ss (x.pushTo (w / 8)) (w / 8) .stackWrite) :
    x.push v = .ok ((x.store (x.locate .ss (x.pushTo (w / 8)) (w / 8) .stackWrite) v).setSp (x.pushTo (w / 8))) := by
  unfold X86State.push
  simp only [X86State.spPlus_eq]
  have h3 := (X86State.straddles_eq_false x _ _).2 h1
  rw [show x.stackUp (-(BitVec.ofNat 32 (w / 8))) = x.pushTo (w / 8) from rfl, h3,
    X86State.writeSeg_of_allows _ _ _ _ _ h2]
  rfl

/-- A pop that is allowed answers the top of stack and moves the stack pointer up (spec/40_ia32.md R254). -/
theorem X86State.pop_of_allows (w : Nat) (x : X86State) (h : x.CanPop (w / 8)) :
    x.pop w = .ok (x.mem.read .little top32 w (x.stackAt x.topOfStack (w / 8) .stackRead),
      x.setSp (x.popTo (w / 8))) := by
  unfold X86State.pop
  simp only [X86State.sp_eq, X86State.spPlus_eq]
  rw [(X86State.straddles_eq_false x _ _).2 h.1, X86State.readSeg_of_allows w x _ _ _ h.2]
  rfl

/-- X86_POP_WRAP_LOC changes nothing of the state but the count of drawn values. -/
theorem X86State.wrapLoc_state (x : X86State) (m : X86Mem) :
    ∃ d, (x.wrapLoc m).2 = { x with draws := d } := by
  unfold X86State.wrapLoc
  cases x.params.popWrap
  · exact ⟨x.draws, rfl⟩
  · exact ⟨x.draws, rfl⟩
  · exact ⟨x.draws + 1, rfl⟩

/-- What makes a PUSH shut down (spec/40_ia32.md R262). -/
theorem X86State.stackExhausted_eq (x : X86State) : x.stackExhausted = true ↔ x.Exhausted := by
  unfold X86State.stackExhausted X86State.Exhausted X86State.mode
  rw [X86State.sp_eq]
  cases x.pe <;> cases x.vm <;> simp

/-- A PUSH form with stack space. -/
theorem X86State.guardPush_of (x : X86State) (b : Body X86State) (h : ¬ x.Exhausted) : x.guardPush b = b := by
  unfold X86State.guardPush
  rw [if_neg (fun e => h ((X86State.stackExhausted_eq x).1 e))]

/-! ### From a body to a step -/

/-- A body that completes. -/
theorem x86Do_of_ok {i : Instr} {body : X86State → Body X86State} {s : State} {y : X86State}
    (h : body (s.x86.entered i) = .ok y) : x86Do i body s = .next (s.withX86 y) := by
  unfold x86Do finish
  rw [h]

/-- A body that raises an exception. -/
theorem x86Do_of_raises {i : Instr} {body : X86State → Body X86State} {s : State} {e : Exception}
    (h : body (s.x86.entered i) = .error (.raises e)) : x86Do i body s = takeException e s := by
  unfold x86Do finish
  rw [h]

/-- A form of width `OperandSize` that completes. -/
theorem x86DoSized_of_ok {i : Instr} {body : X86State → Nat → Body X86State} {s : State} {y : X86State}
    (h : body (s.x86.entered i) s.x86.opSize = .ok y) :
    x86Do i (fun x => x.atOpSize (body x)) s = .next (s.withX86 y) :=
  x86Do_of_ok (by rw [X86State.atOpSize_eq]; exact h)

theorem X86State.keepsRegs_trans {ps qs : List (Nat × BitVec 3)} {x y z : X86State}
    (h1 : X86State.KeepsRegs ps x y) (h2 : X86State.KeepsRegs qs y z) : X86State.KeepsRegs (ps ++ qs) x z :=
  fun k i h => (h2 k i fun e he => h e (List.mem_append_right _ he)).trans
    (h1 k i fun e he => h e (List.mem_append_left _ he))

theorem X86State.keepsRegs_congr {ps : List (Nat × BitVec 3)} {x y z : X86State} (h : z.gpr = y.gpr)
    (k : X86State.KeepsRegs ps x y) : X86State.KeepsRegs ps x z := by
  intro r i hi
  have := k r i hi
  simpa [X86State.gpr32, h] using this

theorem X86State.keepsRegs_mono {ps qs : List (Nat × BitVec 3)} {x y : X86State} (k : X86State.KeepsRegs ps x y)
    (h : ∀ e ∈ ps, e ∈ qs) : X86State.KeepsRegs qs x y := fun r i hi => k r i fun e he => hi e (h e he)

theorem X86State.isWidth_opSize (x : X86State) : IsWidth x.opSize := by
  rcases x.opSize_width with h | h <;> rw [h] <;> decide

/-- An r/m operand reads the same after the instruction is entered. -/
theorem readRM_entered (i : Instr) (s : State) (w : Nat) (rm : X86RM) (h : s.x86.Reaches w rm .read) :
    (s.x86.entered i).readRM w rm = .ok (s.x86.operand w rm) := by
  have h' : (s.x86.entered i).Reaches w rm .read := by cases rm <;> exact h
  rw [X86State.readRM_of_reaches _ _ _ h']
  cases rm <;> rfl

/-- An instruction that ends by writing `v` to an r/m operand, the flags `f` set and free values drawn before. -/
theorem x86Writes_of (i : Instr) (s : State) (w : Nat) (hw : IsWidth w) (dst : X86RM) (v : BitVec w)
    (F : X86Flags → Prop) (f : X86Flags) (d : Nat) (hm : Memory.wf top32 s.x86.mem) (h : s.x86.Reaches w dst .write)
    (hf : F f)
    (he : exec i s = finish s s.withX86 (X86State.writeRM { s.x86.entered i with flags := f, draws := d } dst v)) :
    X86Writes i s w dst v F := by
  have h' : X86State.Reaches { s.x86.entered i with flags := f, draws := d } w dst .write := by
    cases dst <;> exact h
  rw [X86State.writeRM_of_reaches _ _ _ h'] at he
  cases dst with
  | reg n =>
    refine ⟨_, he, ⟨?_, ⟨?_, rfl, rfl, rfl, rfl, rfl, rfl, rfl, rfl, rfl, rfl, rfl⟩, fun _ => rfl⟩, hf, rfl⟩
    · exact X86State.readReg_writeReg _ n v hw
    · exact X86State.keepsRegs_writeReg { s.x86.entered i with flags := f, draws := d } n v
  | mem m =>
    refine ⟨_, he, ⟨?_, ⟨fun _ _ _ => rfl, rfl, rfl, rfl, rfl, rfl, rfl, rfl, rfl, rfl, rfl, rfl⟩⟩, hf, rfl⟩
    exact X86State.stored_store s.x86 _ v hw hm

end Sys2Proof.Machine
end

