-- ==== Sys2Proof/Tests/Slice0.lean ====
section
/-! SUPPORT. Tests: steps of spec/95_test_vectors.md and of the rules' worked examples, each expected value from the
spec; the decoding of a word of every constructor; ill-formed terms; and states that meet the statements' hypotheses. -/

namespace Sys2Proof.Tests
open Sys2Proof Sys2Proof.Machine

/-! ### Helpers -/

/-- The next state, if the step completes. -/
def nextOf : Result → Option State
  | .next t => some t
  | _ => none

/-- The exception, if the step raises one. -/
def raisedBy : Result → Option Exception
  | .fault (.raised e _) => some e
  | _ => none

/-- The refusal, if the step is refused. -/
def refusedAs : Result → Option Refusal
  | .refused r => some r
  | _ => none

/-- The P1 machine of the vectors of spec/95_test_vectors.md: protected, flat, CS.D = SS.B = 1 unless `f` changes it;
`code` at EIP = 0x100, `regs` the registers and `mem` the bytes set. -/
def p1 (regs : List (BitVec 3 × Word)) (mem : List (Nat × List Byte)) (code : List Byte)
    (f : X86State → X86State := id) : State :=
  let x : X86State := f { X86State.reset with eip := 0x100 }
  let x := regs.foldl (fun y e => y.writeReg e.1 e.2) x
  { State.reset with
    x86 := { x with mem := ((0x100, code) :: mem).foldl (fun m e => m.putBytes top32 e.1 e.2) [] } }

/-- What a P1 step leaves, seen through `see`. -/
def x86See (see : X86State → α) (s : State) : Option α := (nextOf (step s)).map fun t => see t.x86

/-- CF OF SF ZF AF PF. -/
def flagRow (x : X86State) : List Bool :=
  [x.flags.cf, x.flags.ovf, x.flags.sf, x.flags.zf, x.flags.af, x.flags.pf]

/-- CF OF SF ZF PF, without AF. -/
def flagRowNoAf (x : X86State) : List Bool := [x.flags.cf, x.flags.ovf, x.flags.sf, x.flags.zf, x.flags.pf]

/-- The 16-bit code and stack segments of a vector. -/
def small (x : X86State) : X86State :=
  { x with segs := { x.segs with cs := { x.segs.cs with desc := { x.segs.cs.desc with big := false } },
                                 ss := { x.segs.ss with desc := { x.segs.ss.desc with big := false } } } }

/-! ### P1 (spec/95_test_vectors.md, X1 to X52) -/

/-- X1. -/
theorem test_push_esp : x86See (fun y => (y.gpr32 4, y.mem.bytes top32 0xFFC 4, y.eip)) (p1 [(4, 0x1000#32)] [] [0x54])
    = some (0xFFC#32, [0, 0x10, 0, 0], 0x101#32) := by decide

/-- X2. -/
theorem test_push_mem_esp :
    x86See (fun y => (y.gpr32 4, y.mem.bytes top32 0xFFC 4, y.eip))
      (p1 [(4, 0x1000#32)] [(0x1004, [0xAA, 0xBB, 0xCC, 0xDD])] [0xFF, 0x74, 0x24, 4])
    = some (0xFFC#32, [0xAA, 0xBB, 0xCC, 0xDD], 0x104#32) := by decide

/-- X3. -/
theorem test_push_imm8 : x86See (fun y => (y.gpr32 4, y.mem.bytes top32 0xFFC 4)) (p1 [(4, 0x1000#32)] [] [0x6A, 0xFE])
    = some (0xFFC#32, [0xFE, 0xFF, 0xFF, 0xFF]) := by decide

/-- X4. -/
theorem test_push_imm8_word :
    x86See (fun y => (y.gpr32 4, y.mem.bytes top32 0xFFC 4)) (p1 [(4, 0x1000#32)] [] [0x66, 0x6A, 0xFE])
    = some (0xFFE#32, [0, 0, 0xFE, 0xFF]) := by decide

/-- X6. -/
theorem test_push_imm :
    x86See (fun y => (y.gpr32 4, y.mem.bytes top32 0xFFC 4)) (p1 [(4, 0x1000#32)] [] [0x68, 0x44, 0x33, 0x22, 0x11])
    = some (0xFFC#32, [0x44, 0x33, 0x22, 0x11]) := by decide

/-- X7: the upper half pushed is free. -/
theorem test_push_fs : x86See (fun y => y.gpr32 4) (p1 [(4, 0x1000#32)] [] [0x0F, 0xA0]) = some 0xFFC#32 := by decide

/-- R261's worked example, 16-bit operand size and stack. -/
theorem test_push_ds :
    x86See (fun y => (y.readReg 16 4, y.mem.bytes top32 0xFE 2)) (p1 [(4, 0x0100#32)] [] [0x1E] small)
    = some (0xFE#16, [0x23, 0]) := by decide

/-- X8: the PUSH shuts the machine down. -/
theorem test_push_shutdown :
    x86See (fun y => (y.shutdown, y.readReg 16 4)) (p1 [(4, 1#32)] [] [0x50] fun x => { small x with pe := false })
    = some (true, 1#16) := by decide

/-- X9. -/
theorem test_push_wraps :
    x86See (fun y => (y.gpr32 4, y.mem.bytes top32 0xFFFE 2)) (p1 [(4, 0xABCD0000#32), (0, 0x3344#32)] [] [0x50] small)
    = some (0xABCDFFFE#32, [0x44, 0x33]) := by decide

/-- X10. -/
theorem test_push_straddles : refusedAs (step (p1 [(4, 1#32)] [] [0x50] small)) = some .stackStraddle := by decide

/-- R105: a near RET at SP = FFFFH of a 16-bit stack with the SS limit FFFFH. -/
theorem test_ret_straddles :
    refusedAs (step (p1 [(4, 0xFFFF#32)] [] [0xC3] fun x =>
      { small x with segs := { (small x).segs with ss := { (small x).segs.ss with desc :=
        { (small x).segs.ss.desc with limit := 0xFFFF } } } })) = some .stackStraddle := by decide

/-- X11. -/
theorem test_push_limit :
    raisedBy (step (p1 [(4, 0x1000#32)] [] [0x50] fun x =>
      { x with segs := { x.segs with ss := { x.segs.ss with desc := { x.segs.ss.desc with limit := 0xFFB } } } }))
    = some (.x86 (.ss 0)) := by decide

/-- X12. -/
theorem test_push_null :
    raisedBy (step (p1 [(4, 0x1000#32)] [] [0xFF, 0x30] fun x =>
      { x with segs := { x.segs with ds := { x.segs.ds with sel := 0, null := true } } }))
    = some (.x86 (.gp 0)) := by decide

/-- X13. -/
theorem test_inc_refused : refusedAs (step (p1 [] [] [0xFF, 0x00])) = some (.undecodable .notListed) := by decide

/-- X14. -/
theorem test_lock_refused : refusedAs (step (p1 [] [] [0xF0, 0x50])) = some .lockPrefix := by decide

/-- X15. -/
theorem test_xor_self :
    x86See (fun y => (y.gpr32 3, flagRowNoAf y)) (p1 [(3, 0xDEADBEEF#32)] [] [0x31, 0xDB])
    = some (0#32, [false, false, false, true, true]) := by decide

/-- X16. -/
theorem test_xor_al :
    x86See (fun y => (y.gpr32 0, flagRowNoAf y)) (p1 [(0, 0x123456FF#32)] [] [0x34, 0xFF])
    = some (0x12345600#32, [false, false, false, true, true]) := by decide

/-- X17. -/
theorem test_xor_mem :
    x86See (fun y => (y.mem.get 0x2000, flagRowNoAf y)) (p1 [(3, 0x2000#32)] [(0x2000, [0x34])] [0x80, 0x33, 0x12])
    = some (0x26#8, [false, false, false, false, false]) := by decide

/-- X18. -/
theorem test_xor_ax :
    x86See (fun y => (y.gpr32 0, flagRowNoAf y)) (p1 [(0, 0xFFFF8000#32)] [] [0x66, 0x35, 1, 0])
    = some (0xFFFF8001#32, [false, false, true, false, false]) := by decide

/-- X19. -/
theorem test_mov_mem8 :
    x86See (fun y => y.mem.get 0x2000) (p1 [(3, 0x2000#32), (1, 0xA5#32)] [] [0x88, 0x0B]) = some 0xA5#8 := by decide

/-- X21. -/
theorem test_mov_mem_imm :
    x86See (fun y => y.mem.bytes top32 0x2004 4) (p1 [(3, 0x2000#32)] [] [0xC7, 0x43, 4, 0x44, 0x33, 0x22, 0x11])
    = some [0x44, 0x33, 0x22, 0x11] := by decide

/-- X22. -/
theorem test_mov_moffs :
    x86See (fun y => y.gpr32 0) (p1 [] [(0x1000, [0x78, 0x56, 0x34, 0x12])] [0xA1, 0, 0x10, 0, 0])
    = some 0x12345678#32 := by decide

/-- R268's worked example. -/
theorem test_mov_mem_ds :
    x86See (fun y => y.mem.bytes top32 0x2000 3) (p1 [(3, 0x2000#32)] [(0x2002, [0x77])] [0x8C, 0x1B])
    = some [0x23, 0, 0x77] := by decide

/-- X24. -/
theorem test_mov_cs : raisedBy (step (p1 [] [] [0x8E, 0xC8])) = some (.x86 .ud) := by decide

/-- X25. -/
theorem test_mov_es_null :
    x86See (fun y => (y.segs.es.sel, y.segs.es.null)) (p1 [] [] [0x8E, 0xC0]) = some (0#16, true) := by decide

/-- X27. -/
theorem test_add_al :
    x86See (fun y => (y.gpr32 0, flagRow y)) (p1 [(0, 0x80#32)] [] [0x04, 0x80])
    = some (0#32, [true, true, false, true, false, true]) := by decide

/-- X28. -/
theorem test_add_ax :
    x86See (fun y => (y.gpr32 0, flagRow y)) (p1 [(0, 0x1234FFFF#32)] [] [0x66, 0x83, 0xC0, 0xFF])
    = some (0x1234FFFE#32, [true, false, true, false, true, false]) := by decide

/-- X29. -/
theorem test_adc_eax :
    x86See (fun y => (y.gpr32 0, flagRow y)) (p1 [(0, 0x7FFFFFFF#32)] [] [0x83, 0xD0, 0] fun x =>
      { x with flags := { x.flags with cf := true } })
    = some (0x80000000#32, [false, true, true, false, true, true]) := by decide

/-- X29b. -/
theorem test_adc_minus_one :
    x86See (fun y => (y.gpr32 0, flagRow y)) (p1 [(0, 0xFFFFFFFF#32)] [] [0x83, 0xD0, 0xFF] fun x =>
      { x with flags := { x.flags with cf := true } })
    = some (0xFFFFFFFF#32, [true, false, true, false, true, true]) := by decide

/-- X30: AF is free. -/
theorem test_shrd_one :
    x86See (fun y => (y.gpr32 0, flagRowNoAf y)) (p1 [(0, 0x80000001#32)] [] [0x0F, 0xAC, 0xD8, 1])
    = some (0x40000000#32, [true, true, false, false, true]) := by decide

/-- X33. -/
theorem test_shrd_none :
    x86See (fun y => (y.gpr32 0, y.flags, y.eip)) (p1 [(0, 0x12345678#32), (1, 0x20#32)] [] [0x0F, 0xAD, 0xD8])
    = some (0x12345678#32, X86State.reset.flags, 0x103#32) := by decide

/-- X34: OF and AF are free. -/
theorem test_shrd_eight :
    x86See (fun y => (y.gpr32 0, y.flags.cf, y.flags.sf, y.flags.zf, y.flags.pf))
      (p1 [(0, 0x12345678#32), (1, 0x28#32), (3, 0xABCDEF01#32)] [] [0x0F, 0xAD, 0xD8])
    = some (0x01123456#32, false, false, false, true) := by decide

/-- X38. -/
theorem test_loop_wraps : x86See (fun y => (y.gpr32 1, y.eip)) (p1 [] [] [0xE2, 0xFE])
    = some (0xFFFFFFFF#32, 0x100#32) := by decide

/-- X38c. -/
theorem test_loop_cx : x86See (fun y => (y.gpr32 1, y.eip)) (p1 [(1, 0x10001#32)] [] [0x67, 0xE2, 0xFD])
    = some (0x10000#32, 0x103#32) := by decide

/-- X38e. -/
theorem test_loope : x86See (fun y => (y.gpr32 1, y.eip)) (p1 [(1, 2#32)] [] [0xE1, 0xFE])
    = some (1#32, 0x102#32) := by decide

/-- X38f. -/
theorem test_loopne : x86See (fun y => (y.gpr32 1, y.eip)) (p1 [(1, 2#32)] [] [0xE0, 0xFE])
    = some (1#32, 0x100#32) := by decide

/-- X39. -/
theorem test_xchg_mem :
    x86See (fun y => (y.gpr32 0, y.mem.bytes top32 0x2000 4))
      (p1 [(0, 1#32), (3, 0x2000#32)] [(0x2000, [2, 0, 0, 0])] [0x87, 0x03])
    = some (2#32, [1, 0, 0, 0]) := by decide

/-- X39b. -/
theorem test_xchg_al_ah : x86See (fun y => y.gpr32 0) (p1 [(0, 0xAABB1234#32)] [] [0x86, 0xE0])
    = some 0xAABB3412#32 := by decide

/-- X39c. -/
theorem test_xchg_ax : x86See (fun y => (y.gpr32 0, y.gpr32 3)) (p1 [(0, 0x1111AAAA#32), (3, 0x2222BBBB#32)] [] [0x66, 0x93])
    = some (0x1111BBBB#32, 0x2222AAAA#32) := by decide

/-- X40. -/
theorem test_pop_esp : x86See (fun y => y.gpr32 4) (p1 [(4, 0xFFC#32)] [(0xFFC, [0, 0x20, 0, 0])] [0x5C])
    = some 0x2000#32 := by decide

/-- X41. -/
theorem test_pop_mem_esp :
    x86See (fun y => (y.gpr32 4, y.mem.bytes top32 0x1000 4))
      (p1 [(4, 0xFFC#32)] [(0xFFC, [0x11, 0x22, 0x33, 0x44])] [0x8F, 0x04, 0x24])
    = some (0x1000#32, [0x11, 0x22, 0x33, 0x44]) := by decide

/-- X42. -/
theorem test_pop_ax :
    x86See (fun y => (y.gpr32 0, y.gpr32 4)) (p1 [(0, 0xAAAAAAAA#32), (4, 0xFFE#32)] [(0xFFE, [0x34, 0x12])] [0x66, 0x58])
    = some (0xAAAA1234#32, 0x1000#32) := by decide

/-- X43. -/
theorem test_pop_ds_null : x86See (fun y => (y.segs.ds.null, y.gpr32 4)) (p1 [(4, 0xFFC#32)] [] [0x1F])
    = some (true, 0x1000#32) := by decide

/-- X44. -/
theorem test_pop_ss_null : raisedBy (step (p1 [(4, 0xFFC#32)] [] [0x17])) = some (.x86 (.gp 0)) := by decide

/-- X47. -/
theorem test_pop_register_form : refusedAs (step (p1 [] [] [0x8F, 0xC0])) = some (.undecodable .popRegisterForm) := by
  decide

/-- X48. -/
theorem test_ret : x86See (fun y => (y.eip, y.gpr32 4)) (p1 [(4, 0xFFC#32)] [(0xFFC, [0, 0x20, 0, 0])] [0xC3])
    = some (0x2000#32, 0x1000#32) := by decide

/-- X51. -/
theorem test_ret_imm_small :
    x86See (fun y => (y.eip, y.readReg 16 4)) (p1 [(4, 0xFFFA#32)] [(0xFFFA, [0x34, 0x12])] [0xC2, 8, 0] small)
    = some (0x1234#32, 4#16) := by decide

/-- X52. -/
theorem test_ret_far : refusedAs (step (p1 [] [] [0xCB])) = some .farReturn := by decide

/-- R240: bytes that the table does not list are refused, whatever stands or cannot be fetched after. -/
theorem test_unlisted_at_limit :
    ∀ c ∈ [[0xF4], [0x40], [0x0F, 0x0B], [0xFF, 0x00]], refusedAs (step (p1 [] [] c fun x =>
      { x with segs := { x.segs with cs := { x.segs.cs with desc := { x.segs.cs.desc with
        limit := BitVec.ofNat 32 (0xFF + c.length) } } } })) = some (.undecodable .notListed) := by decide

/-- R27: outside protected mode a null DS and an offset past its limit raise nothing. -/
theorem test_real_mode_unchecked :
    x86See (fun y => y.mem.get 0x2000) (p1 [(3, 0x2000#32), (1, 0xA5#32)] [] [0x88, 0x0B] fun x =>
      { x with pe := false, segs := { x.segs with ds := { x.segs.ds with null := true, desc :=
        { x.segs.ds.desc with limit := 0 } } } }) = some 0xA5#8 := by decide

/-- R104: a page that faults on writes only. -/
theorem test_page_fault_by_kind :
    let pages (x : X86State) : X86State :=
      { x with params := { x.params with seg := .based [⟨⟨0x2000, 0x1000⟩, [.write], .fault 7⟩] } }
    x86See (fun y => y.readReg 8 1) (p1 [(3, 0x2000#32)] [(0x2000, [0x5A])] [0x8A, 0x0B] pages) = some 0x5A#8 ∧
    raisedBy (step (p1 [(3, 0x2000#32)] [] [0x88, 0x0B] pages)) = some (.x86 (.pf 7)) := by decide

/-- R289: X86_POP_WRAP_LOC says where the value goes. -/
theorem test_pop_wrap_location :
    x86See (fun y => (y.mem.bytes top32 0x3000 2, y.readReg 16 4))
      (p1 [(4, 0xFFFE#32)] [(0xFFFE, [0x34, 0x12])] [0x67, 0x8F, 0x04, 0x24] fun x =>
        { small x with params := { x.params with popWrap := .lies .es 0x3000 } }) = some ([0x34, 0x12], 0#16) := by decide

/-! ### P2 (A1 to A19) -/

/-- The P2 machine of the vectors: `w` at 0x8000, little-endian, User mode, NZCV as given. -/
def p2 (regs : List (BitVec 4 × Word)) (mem : List (Nat × List Byte)) (nzcv : BitVec 4) (w : Word)
    (f : ArmState → ArmState := id) : State :=
  let a : ArmState := f { ArmState.reset with cpsr := (nzcv.setWidth 32 <<< 28) ||| 0x10#32 }
  let a : ArmState := (regs ++ [(15, 0x8000#32)]).foldl (fun b (e : BitVec 4 × Word) => ArmState.setReg b e.1 e.2) a
  let m : Memory := mem.foldl (fun m e => m.putBytes top32 e.1 e.2) []
  { State.reset with part := .p2, arm := { a with mem := m.write a.params.order top32 32 0x8000 w } }

/-- What a P2 step leaves, seen through `look`. -/
def armSee (look : ArmState → α) (s : State) : Option α := (nextOf (step s)).map fun t => look t.arm

/-- N Z C V. -/
def nzcvOf (a : ArmState) : BitVec 4 := a.cpsr.extractLsb' 28 4

/-- A1. -/
theorem test_arm_condition_fails : armSee (fun a => (a.reg 0, a.pc)) (p2 [(0, 5#32)] [] 0 0x02800001#32)
    = some (5#32, 0x8004#32) := by decide

/-- A2, A3. -/
theorem test_arm_reads_pc :
    armSee (fun a => a.reg 0) (p2 [] [] 0 0xE1A0000F#32) = some 0x8008#32 ∧
    armSee (fun a => a.reg 0) (p2 [] [] 0 0xE28F0008#32) = some 0x8010#32 := by decide

/-- A5, A6. -/
theorem test_arm_movs_lsr :
    armSee (fun a => (a.reg 0, nzcvOf a)) (p2 [(1, 0x80000000#32)] [] 0 0xE1B00021#32) = some (0#32, 6#4) ∧
    armSee (fun a => (a.reg 0, nzcvOf a)) (p2 [(1, 3#32)] [] 1 0xE1B000A1#32) = some (1#32, 3#4) := by decide

/-- A7. -/
theorem test_arm_orrs_lsl :
    armSee (fun a => (a.reg 0, nzcvOf a)) (p2 [(1, 3#32)] [] 0 0xE1900F81#32) = some (0x80000000#32, 0xA#4) := by decide

/-- A8, A8b. -/
theorem test_arm_adds :
    armSee (fun a => (a.reg 0, nzcvOf a)) (p2 [(0, 0xFFFFFFFF#32), (1, 1#32)] [] 0 0xE0900001#32) = some (0#32, 6#4) ∧
    armSee (fun a => (a.reg 0, nzcvOf a)) (p2 [(0, 0x80000000#32), (1, 0x80000000#32)] [] 0 0xE0900001#32)
      = some (0#32, 7#4) := by decide

/-- A9, A9b. -/
theorem test_arm_adcs :
    armSee (fun a => (a.reg 0, nzcvOf a)) (p2 [(0, 0xFFFFFFFF#32)] [] 2 0xE2B00000#32) = some (0#32, 6#4) ∧
    armSee (fun a => (a.reg 0, nzcvOf a)) (p2 [(0, 0x7FFFFFFF#32)] [] 2 0xE2B00000#32) = some (0x80000000#32, 9#4) := by
  decide

/-- A10, A10b, A10c. -/
theorem test_arm_subs :
    armSee (fun a => (a.reg 0, nzcvOf a)) (p2 [(0, 0x80000000#32), (1, 1#32)] [] 0 0xE0500001#32)
      = some (0x7FFFFFFF#32, 3#4) ∧
    armSee (fun a => (a.reg 0, nzcvOf a)) (p2 [(0, 5#32), (1, 7#32)] [] 0 0xE0500001#32) = some (0xFFFFFFFE#32, 8#4) ∧
    armSee (fun a => (a.reg 0, nzcvOf a)) (p2 [(0, 0x7FFFFFFF#32), (1, 0xFFFFFFFF#32)] [] 0 0xE0500001#32)
      = some (0x80000000#32, 9#4) := by decide

/-- A11 at 0x1001 and A11b. -/
theorem test_arm_ldr_rotates :
    armSee (fun a => a.reg 0) (p2 [(1, 0x1001#32)] [(0x1000, [0x11, 0x22, 0x33, 0x44])] 0 0xE5910000#32)
      = some 0x11443322#32 ∧
    armSee (fun a => a.reg 0) (p2 [(1, 0x1001#32)] [(0x1000, [0x11, 0x22, 0x33, 0x44])] 0 0xE5910000#32
      fun a => { a with params := { a.params with order := .big } }) = some 0x44112233#32 := by decide

/-- A11c. -/
theorem test_arm_ldr_alignment :
    raisedBy (step (p2 [(1, 0x1001#32)] [] 0 0xE5910000#32 fun a => { a with params := { a.params with alignCheck := true } }))
    = some (.armAlignment 0x1001#32) := by decide

/-- A12, A12b. -/
theorem test_arm_ldr_pc :
    armSee (fun a => a.pc) (p2 [(1, 0x1000#32)] [(0x1000, [0, 0x90])] 0 0xE591F000#32) = some 0x9000#32 ∧
    refusedAs (step (p2 [(1, 0x1000#32)] [(0x1000, [2, 0x90])] 0 0xE591F000#32)) = some .armPcLowBits := by decide

/-- A13, A13b, A13c. -/
theorem test_arm_ldr_modes :
    armSee (fun a => (a.reg 0, a.reg 1)) (p2 [(1, 0x1000#32)] [(0x1000, [7])] 0 0xE4910004#32) = some (7#32, 0x1004#32) ∧
    armSee (fun a => (a.reg 0, a.reg 1)) (p2 [(1, 0x1000#32)] [(0x1004, [9])] 0 0xE5B10004#32) = some (9#32, 0x1004#32) ∧
    armSee (fun a => (a.reg 0, a.reg 1)) (p2 [(1, 0x1010#32), (2, 0x10#32)] [(0x1000, [5])] 0 0xE7110002#32)
      = some (5#32, 0x1010#32) := by decide

/-- A13d, A14, A15: refused. -/
theorem test_arm_refused :
    refusedAs (step (p2 [] [] 0 0xE5B11004#32)) = some .armWritebackRd ∧
    refusedAs (step (p2 [] [] 0 0xF1A00000#32)) = some (.undecodable .armNever) ∧
    refusedAs (step (p2 [] [] 0 0xE1B0F00E#32)) = some .armNoSpsr := by decide

/-- A15b: R13 and R14 are free afterwards. -/
theorem test_arm_exception_return :
    armSee (fun a => (a.cpsr, a.pc, a.reg 12)) (p2 [(12, 0xC#32), (14, 0x9000#32)] [] 0 0xE1B0F00E#32 fun a =>
      { a with cpsr := 0x13#32, spsr := a.spsr.set 0x13 0x80000010#32 })
    = some (0x80000010#32, 0x9000#32, 0xC#32) := by decide

/-- A16, A17. -/
theorem test_arm_branches :
    armSee (fun a => (a.reg 14, a.pc)) (p2 [] [] 0 0x1BFFFFFE#32) = some (0x8004#32, 0x8000#32) ∧
    armSee (fun a => a.pc) (p2 [] [] 0 0xEA000000#32) = some 0x8008#32 ∧
    refusedAs (exec (.armB .al 0xFFFFFD#24) { State.reset with part := .p2 }) = some .armBranchWrap := by decide

/-- A18 to A18d. -/
theorem test_arm_bx :
    armSee (fun a => (a.t, a.pc)) (p2 [(3, 0x9001#32)] [] 4 0x012FFF13#32) = some (true, 0x9000#32) ∧
    refusedAs (step (p2 [(3, 0x9002#32)] [] 4 0x012FFF13#32)) = some .armBxBit1 ∧
    raisedBy (step (p2 [] [] 4 0x012FFF13#32 fun a => { a with params := { a.params with v4T := false } }))
      = some .armUndefined := by decide

/-- A19, A19b. -/
theorem test_arm_mov_imm :
    armSee (fun a => a.reg 0) (p2 [] [] 0 0xE3A00CFF#32) = some 0xFF00#32 ∧
    armSee (fun a => (a.reg 0, nzcvOf a)) (p2 [] [] 0 0xE3B004FF#32) = some (0xFF000000#32, 0xA#4) := by decide

/-! ### P3 (W1 to W16) -/

/-- The P3 machine of the vectors: `w` at CIA = 0x100. -/
def p3 (regs : List (BitVec 5 × Word)) (mem : List (Nat × List Byte)) (w : Word) (f : PpcState → PpcState := id) :
    State :=
  let p := regs.foldl (fun b (e : BitVec 5 × Word) => PpcState.setReg b e.1 e.2) (f { PpcState.reset with cia := 0x100 })
  let m : Memory := mem.foldl (fun m e => m.putBytes top32 e.1 e.2) []
  { State.reset with part := .p3, ppc := { p with mem := m.write .big top32 32 0x100 w } }

/-- What a P3 step leaves, seen through `look`. -/
def ppcSee (look : PpcState → α) (s : State) : Option α := (nextOf (step s)).map fun t => look t.ppc

/-- W1, W3. -/
theorem test_ppc_addi :
    ppcSee (fun p => (p.reg 0, p.cia)) (p3 [(0, 0x55#32)] [] 0x38000001#32) = some (1#32, 0x104#32) ∧
    ppcSee (fun p => p.reg 3) (p3 [(4, 3#32)] [] 0x3864FFFB#32) = some 0xFFFFFFFE#32 := by decide

/-- W4, W5. -/
theorem test_ppc_mtspr :
    ppcSee (fun p => (p.xer, p.so, p.ov, p.ca)) (p3 [(3, 0xE0000000#32)] [] 0x7C6103A6#32)
      = some (0xE0000000#32, true, true, true) ∧
    ppcSee (fun p => p.lr) (p3 [(3, 0x2003#32)] [] 0x7C6803A6#32) = some 0x2003#32 := by decide

/-- W6. -/
theorem test_ppc_mtspr_other :
    raisedBy (step (p3 [] [] 0x7C7043A6#32)) = some .ppcIllegal ∧
    refusedAs (step (p3 [] [] 0x7C7043A6#32 fun p => { p with params := { p.params with user := false } }))
      = some .ppcSupervisorSpr := by decide

/-- W7b, W7c. -/
theorem test_ppc_lwzu :
    ppcSee (fun p => (p.reg 3, p.reg 4)) (p3 [(4, 0x1000#32)] [(0x1001, [0xAD, 0xBE, 0xEF, 1])] 0x84640001#32)
      = some (0xADBEEF01#32, 0x1001#32) ∧
    refusedAs (step (p3 [] [] 0x84840008#32)) = some .ppcInvalidForm := by decide

/-- W8, W8b. -/
theorem test_ppc_addc :
    ppcSee (fun p => (p.reg 3, p.ca)) (p3 [(3, 0xFFFFFFFF#32), (5, 1#32)] [] 0x7C632814#32) = some (0#32, true) ∧
    ppcSee (fun p => (p.reg 3, p.xer, p.cr)) (p3 [(3, 0x40000000#32), (5, 0x40000000#32)] [] 0x7C632C15#32)
      = some (0x80000000#32, 0xC0000000#32, 0x90000000#32) := by decide

/-- W9, W9b. -/
theorem test_ppc_addze :
    ppcSee (fun p => (p.reg 4, p.ca)) (p3 [(4, 0xFFFFFFFF#32)] [] 0x7C840194#32 fun p => { p with xer := 0x20000000 })
      = some (0#32, true) ∧
    refusedAs (step (p3 [] [] 0x7C842994#32)) = some (.undecodable .ppcReservedField) := by decide

/-- W10, W10b, W11, W12, W13b. -/
theorem test_ppc_bc :
    ppcSee (fun p => (p.ctr, p.cia)) (p3 [] [] 0x41020008#32 fun p => { p with ctr := 2, cr := 0x20000000 })
      = some (1#32, 0x108#32) ∧
    ppcSee (fun p => (p.ctr, p.cia)) (p3 [] [] 0x41020008#32 fun p => { p with ctr := 1, cr := 0x20000000 })
      = some (0#32, 0x104#32) ∧
    ppcSee (fun p => (p.ctr, p.cia)) (p3 [] [] 0x4240FFFC#32 fun p => { p with ctr := 1 }) = some (0#32, 0xFC#32) ∧
    ppcSee (fun p => (p.lr, p.cia)) (p3 [] [] 0x429F0005#32) = some (0x104#32, 0x104#32) ∧
    ppcSee (fun p => p.cia) (p3 [] [] 0x4180FFFA#32 fun p => { p with cr := 0x80000000 }) = some 0xFFFFFFF8#32 := by
  decide

/-- W14, W14b. -/
theorem test_ppc_bclr :
    ppcSee (fun p => p.cia) (p3 [] [] 0x4C820020#32 fun p => { p with lr := 0x2003 }) = some 0x2000#32 ∧
    ppcSee (fun p => (p.lr, p.cia)) (p3 [] [] 0x4E800021#32 fun p => { p with lr := 0x2000 })
      = some (0x104#32, 0x2000#32) := by decide

/-- W15b, W15c. -/
theorem test_ppc_rlwinm :
    ppcSee (fun p => (p.reg 3, p.cr)) (p3 [(4, 1#32)] [] 0x5483F801#32) = some (0x80000000#32, 0x80000000#32) ∧
    ppcSee (fun p => p.reg 3) (p3 [(4, 0xFFFFFFFF#32)] [] 0x54830782#32) = some 0xC0000003#32 := by decide

/-- W16, W16b. -/
theorem test_ppc_rlwimi :
    ppcSee (fun p => p.reg 3) (p3 [(4, 0xAB#32), (3, 0xFFFFFFFF#32)] [] 0x5083A116#32) = some 0xFABFFFFF#32 ∧
    ppcSee (fun p => (p.reg 3, p.cr)) (p3 [(4, 0x00345678#32)] [] 0x5083463F#32) = some (0#32, 0x20000000#32) := by decide

/-! ### P4 (Q1 to Q17) -/

/-- The P4 machine of the vectors: `w` at PC = 0x1000, nPC = 0x1004, n z v c as given. -/
def p4 (regs : List (BitVec 5 × Word)) (mem : List (Nat × List Byte)) (nzvc : BitVec 4) (w : Word)
    (f : SparcState → SparcState := id) : State :=
  let p := regs.foldl (fun b e => b.setReg e.1 e.2)
    (f { SparcState.reset with pc := 0x1000, npc := 0x1004, psr := nzvc.setWidth 32 <<< 20 })
  let m : Memory := mem.foldl (fun m e => m.putBytes top32 e.1 e.2) []
  { State.reset with part := .p4, sparc := { p with mem := m.write .big top32 32 0x1000 w } }

/-- What a P4 step leaves, seen through `look`. -/
def sparcSee (look : SparcState → α) (s : State) : Option α := (nextOf (step s)).map fun t => look t.sparc

/-- n z v c. -/
def iccOf (p : SparcState) : BitVec 4 := p.psr.extractLsb' 20 4

/-- Q1, Q2. -/
theorem test_sparc_or_add :
    sparcSee (fun p => (p.r, p.pc, p.npc)) (p4 [] [] 0 0x80100000#32) = some (zeroRegs 5 32, 0x1004#32, 0x1008#32) ∧
    sparcSee (fun p => p.reg 3) (p4 [] [] 0 0x86003000#32) = some 0xFFFFF000#32 := by decide

/-- Q3, Q3b. -/
theorem test_sparc_addcc :
    sparcSee (fun p => (p.reg 1, iccOf p)) (p4 [(1, 1#32)] [] 0 0x82807FFF#32) = some (0#32, 5#4) ∧
    sparcSee (fun p => (p.reg 3, iccOf p)) (p4 [(1, 0x80000000#32), (2, 0x80000000#32)] [] 0 0x86804002#32)
      = some (0#32, 7#4) := by decide

/-- Q4. -/
theorem test_sparc_addx : sparcSee (fun p => (p.reg 3, iccOf p)) (p4 [(1, 0xFFFFFFFF#32)] [] 1 0x86406000#32)
    = some (0#32, 1#4) := by decide

/-- Q5, Q5b, Q6. -/
theorem test_sparc_subcc :
    sparcSee (fun p => (p.reg 1, iccOf p)) (p4 [] [] 0 0x82A06001#32) = some (0xFFFFFFFF#32, 9#4) ∧
    sparcSee (fun p => (p.reg 3, iccOf p)) (p4 [(2, 0x80000000#32)] [] 0 0x86A04002#32) = some (0x80000000#32, 11#4) ∧
    sparcSee (fun p => (p.reg 0, iccOf p)) (p4 [(1, 7#32), (2, 7#32)] [] 0 0x80A04002#32) = some (0#32, 4#4) := by decide

/-- Q7, Q7b, Q16. -/
theorem test_sparc_shifts :
    sparcSee (fun p => p.reg 3) (p4 [(1, 3#32)] [] 0 0x8728601F#32) = some 0x80000000#32 ∧
    sparcSee (fun p => p.reg 3) (p4 [(1, 0x80000000#32), (2, 0x21#32)] [] 0 0x87304002#32) = some 0x40000000#32 ∧
    sparcSee (fun p => p.reg 1) (p4 [] [] 0 0x033FFFFF#32) = some 0xFFFFFC00#32 := by decide

/-- Q8, Q8b, Q9. -/
theorem test_sparc_ld :
    sparcSee (fun p => p.reg 3) (p4 [(1, 0x2000#32)] [(0x2000, [0x12, 0x34, 0x56, 0x78])] 0 0xC6004000#32)
      = some 0x12345678#32 ∧
    raisedBy (step (p4 [(1, 0x2002#32)] [] 0 0xC6004000#32)) = some (.sparcNotAligned (some 0x2002#32)) ∧
    sparcSee (fun p => p.reg 3) (p4 [] [(0xFFFFFFF8, [0, 0, 0, 0x2A])] 0 0xC6003FF8#32) = some 42#32 := by decide

/-- Q10, Q10b, Q11, Q11b, Q12. -/
theorem test_sparc_annul :
    sparcSee (fun p => (p.pc, p.npc, p.annulNext)) (p4 [] [] 0 0x32800002#32) = some (0x1004#32, 0x1008#32, false) ∧
    sparcSee (fun p => (p.pc, p.npc, p.annulNext)) (p4 [] [] 4 0x32800002#32) = some (0x1004#32, 0x1008#32, true) ∧
    sparcSee (fun p => (p.pc, p.npc, p.annulNext)) (p4 [] [] 0 0x30800004#32) = some (0x1004#32, 0x1010#32, true) ∧
    sparcSee (fun p => (p.pc, p.npc, p.annulNext)) (p4 [] [] 0 0x10800004#32) = some (0x1004#32, 0x1010#32, false) ∧
    sparcSee (fun p => (p.pc, p.npc, p.annulNext)) (p4 [] [] 0 0x20800002#32) = some (0x1004#32, 0x1008#32, true) := by
  decide

/-- Q13, Q14b. -/
theorem test_sparc_bicc_conditions :
    sparcSee (fun p => p.npc) (p4 [] [] 4 0x02BFFFFF#32) = some 0xFFC#32 ∧
    sparcSee (fun p => p.npc) (p4 [] [] 0 0x18800002#32) = some 0x1008#32 ∧
    sparcSee (fun p => p.npc) (p4 [] [] 1 0x18800004#32) = some 0x1008#32 := by decide

/-- Q15, Q15b, Q17. -/
theorem test_sparc_jmpl :
    sparcSee (fun p => (p.reg 1, p.pc, p.npc)) (p4 [(1, 0x5000#32), (2, 0x10#32)] [] 0 0x83C04002#32)
      = some (0x1000#32, 0x1004#32, 0x5010#32) ∧
    raisedBy (step (p4 [(1, 0x5000#32), (2, 0x12#32)] [] 0 0x83C04002#32)) = some (.sparcNotAligned none) ∧
    refusedAs (step (p4 [] [] 0 0x10800002#32 fun p => { p with inDelaySlot := true })) = some .sparcCtiInSlot := by decide

/-! ### P5 (M1 to M10) -/

/-- The P5 machine of the vectors: `w` at PC = 0x1000, release 2. -/
def p5 (regs : List (BitVec 5 × Word)) (mem : List (Nat × List Byte)) (w : Word) (f : MipsState → MipsState := id) :
    State :=
  let p := regs.foldl (fun b (e : BitVec 5 × Word) => MipsState.setReg b e.1 e.2) (f { MipsState.reset with pc := 0x1000 })
  let m : Memory := mem.foldl (fun m e => m.putBytes top32 e.1 e.2) []
  { State.reset with part := .p5, mips := { p with mem := m.write .big top32 32 0x1000 w } }

/-- What a P5 step leaves, seen through `look`. -/
def mipsSee (look : MipsState → α) (s : State) : Option α := (nextOf (step s)).map fun t => look t.mips

/-- Another release. -/
def release (r : MipsRelease) (p : MipsState) : MipsState := { p with params := { p.params with release := r } }

/-- M1, M1b. -/
theorem test_mips_addiu :
    mipsSee (fun p => p.reg 2) (p5 [(4, 0x7FFFFFFF#32)] [] 0x24820001#32) = some 0x80000000#32 ∧
    mipsSee (fun p => p.reg 2) (p5 [(4, 0x8000#32)] [] 0x24828000#32) = some 0#32 := by decide

/-- M2, M3. -/
theorem test_mips_ori_addu :
    mipsSee (fun p => p.reg 2) (p5 [] [] 0x3402FFFF#32) = some 0xFFFF#32 ∧
    mipsSee (fun p => p.reg 0) (p5 [(4, 1#32), (5, 2#32)] [] 0x00850021#32) = some 0#32 := by decide

/-- M4, M4c. -/
theorem test_mips_sltu :
    mipsSee (fun p => p.reg 2) (p5 [(4, 7#32)] [] 0x0004102B#32) = some 1#32 ∧
    mipsSee (fun p => p.reg 2) (p5 [(4, 1#32), (5, 0xFFFFFFFF#32)] [] 0x0085102B#32) = some 1#32 := by decide

/-- M5b, M5c, M5d. -/
theorem test_mips_lw :
    mipsSee (fun p => p.reg 4) (p5 [(4, 0x2000#32)] [(0x2004, [0, 0, 0, 0x2A])] 0x8C840004#32) = some 42#32 ∧
    raisedBy (step (p5 [(4, 0x2002#32)] [] 0x8C820000#32)) = some (.mipsAddressError (some 0x2002#32)) ∧
    mipsSee (fun p => p.reg 2) (p5 [(4, 0x2002#32)] [(0x2002, [1, 2, 3, 4])] 0x8C820000#32 fun p =>
      { p with params := { p.params with release := .r6, misalign := .supported } }) = some 0x01020304#32 := by decide

/-- M6, M6b. -/
theorem test_mips_bne :
    mipsSee (fun p => (p.pc, p.delayed)) (p5 [] [] 0x14000001#32) = some (0x1004#32, some ⟨0x1008#32, none⟩) ∧
    mipsSee (fun p => (p.pc, p.delayed)) (p5 [(4, 1#32)] [] 0x1485FFFF#32) = some (0x1004#32, some ⟨0x1000#32, none⟩) := by
  decide

/-- The slot of M6b: control goes to the target after it. -/
theorem test_mips_slot :
    mipsSee (fun p => (p.pc, p.delayed, p.reg 2)) (p5 [] [] 0x3402FFFF#32 fun p => { p with delayed := some ⟨0x2000, none⟩ })
    = some (0x2000#32, none, 0xFFFF#32) := by decide

/-- M7, M7c, M7d. -/
theorem test_mips_ext :
    mipsSee (fun p => p.reg 2) (p5 [(4, 0xABCD1234#32)] [] 0x7C821F00#32) = some 0xA#32 ∧
    refusedAs (step (p5 [] [] 0x7C82F840#32)) = some .mipsExtRange ∧
    raisedBy (step (p5 [] [] 0x7C821F00#32 (release .r1))) = some .mipsReserved := by decide

/-- M8, M8c, M8d. -/
theorem test_mips_ins :
    mipsSee (fun p => p.reg 2) (p5 [(2, 0x0FFFFFFF#32), (4, 5#32)] [] 0x7C82FF04#32) = some 0x5FFFFFFF#32 ∧
    mipsSee (fun p => p.reg 2) (p5 [(4, 1#32)] [] 0x7C82FFC4#32) = some 0x80000000#32 ∧
    refusedAs (step (p5 [] [] 0x7C820044#32)) = some .mipsInsRange := by decide

/-- M9, M9c and the Release 6 word (R542). -/
theorem test_mips_jr :
    mipsSee (fun p => (p.pc, p.delayed)) (p5 [(4, 0x2000#32)] [] 0x00800008#32) = some (0x1004#32, some ⟨0x2000#32, none⟩) ∧
    raisedBy (step (p5 [] [] 0x00800008#32 (release .r6))) = some .mipsReserved ∧
    mipsSee (fun p => p.delayed) (p5 [(4, 0x2000#32)] [] 0x00800009#32 (release .r6)) = some (some ⟨0x2000#32, none⟩) := by
  decide

/-- M9b, M9d, M10. -/
theorem test_mips_jr_stops :
    raisedBy (step (p5 [] [] 0 fun p => { p with pc := 0x2002 })) = some (.mipsAddressError none) ∧
    refusedAs (step (p5 [] [] 0x00800408#32)) = some (.undecodable .mipsJrHint) ∧
    refusedAs (step (p5 [] [] 0x03E00008#32 fun p => { p with delayed := some ⟨0, none⟩ })) = some .mipsCtiInSlot := by decide

/-! ### P6 (V1 to V40) -/

/-- The P6 machine of the vectors: `w` at pc = 0x1000, RV64 with every extension. -/
def p6 (regs : List (BitVec 5 × DWord)) (mem : List (Nat × List Byte)) (w : Word) (f : RvState → RvState := id) : State :=
  let p := regs.foldl (fun b (e : BitVec 5 × DWord) => RvState.setReg b e.1 e.2) (f { RvState.reset with pc := 0x1000 })
  let m : Memory := mem.foldl (fun m e => m.putBytes p.top e.1 e.2) []
  { State.reset with part := .p6, rv := { p with mem := m.write .little p.top 32 0x1000 w } }

/-- What a P6 step leaves, seen through `look`. -/
def rvSee (look : RvState → α) (s : State) : Option α := (nextOf (step s)).map fun t => look t.rv

/-- RV32. -/
def rv32 (p : RvState) : RvState := { p with params := { p.params with rv64 := false } }

/-- Without C. -/
def noC (p : RvState) : RvState := { p with params := { p.params with extC := false } }

/-- V1, V2. -/
theorem test_rv_loads :
    rvSee (fun p => p.reg 64 10) (p6 [(11, 0x2004#64)] [(0x2000, [1, 0, 0, 0x80])] 0xFFC5A503#32)
      = some 0xFFFFFFFF80000001#64 ∧
    rvSee (fun p => p.reg 64 10) (p6 [(11, 0x2002#64)] [(0x2000, [0xFE, 0xFF])] 0xFFE59503#32)
      = some 0xFFFFFFFFFFFFFFFE#64 := by decide

/-- Worked examples of R585, R587, R589. -/
theorem test_rv_loads_unsigned :
    rvSee (fun p => p.reg 64 10) (p6 [(11, 0x1000#64)]
      [(0x1008, [0x88, 0x77, 0x66, 0x55, 0x44, 0x33, 0x22, 0x11])] 0x0085B503#32) = some 0x1122334455667788#64 ∧
    rvSee (fun p => p.reg 64 10) (p6 [(11, 0x1000#64)] [(0x1008, [0, 0x80])] 0x0085D503#32) = some 0x8000#64 ∧
    rvSee (fun p => p.reg 64 10) (p6 [(11, 0x1000#64)] [(0x1008, [0xEF, 0xBE, 0xAD, 0xDE])] 0x0085E503#32)
      = some 0xDEADBEEF#64 := by decide

/-- V3, V3b. -/
theorem test_rv_stores :
    rvSee (fun p => p.mem.get 0x2000) (p6 [(11, 0x2001#64), (12, 0x1234#64)] [] 0xFEC58FA3#32) = some 0x34#8 ∧
    rvSee (fun p => p.mem.bytes p.top 0x2000 4) (p6 [(11, 0x2001#64), (12, 0x1234#64)] [] 0x00C59023#32)
      = some [0, 0x34, 0x12, 0] := by decide

/-- V4, V5, V5b. -/
theorem test_rv_adds :
    rvSee (fun p => p.reg 64 0) (p6 [(11, 1#64), (12, 2#64)] [] 0x00C58033#32) = some 0#64 ∧
    rvSee (fun p => p.reg 64 10) (p6 [(11, 0x7FFFFFFF#64)] [] 0x0015851B#32) = some 0xFFFFFFFF80000000#64 ∧
    rvSee (fun p => p.reg 64 10) (p6 [(11, 0xFFFFFFFF#64)] [] 0x0005851B#32) = some 0xFFFFFFFFFFFFFFFF#64 := by decide

/-- Worked examples of R601, R603, R606, R608. -/
theorem test_rv_immediates :
    rvSee (fun p => p.reg 64 10) (p6 [] [] 0x80000537#32) = some 0xFFFFFFFF80000000#64 ∧
    rvSee (fun p => p.reg 64 10) (p6 [(11, 5#64)] [] 0xFFF5E513#32) = some 0xFFFFFFFFFFFFFFFF#64 ∧
    rvSee (fun p => p.reg 64 10) (p6 [(11, -1), (12, 1#64)] [] 0x00C5A533#32) = some 1#64 ∧
    rvSee (fun p => p.reg 64 10) (p6 [(11, 5#64)] [] 0xFFF5B513#32) = some 1#64 := by decide

/-- V6, V6b, V6c. -/
theorem test_rv_shift_immediates :
    rvSee (fun p => p.reg 64 10) (p6 [(11, 1#64)] [] 0x03F59513#32) = some 0x8000000000000000#64 ∧
    raisedBy (step (p6 [] [] 0x03F59513#32 rv32)) = some .rvIllegal ∧
    rvSee (fun p => p.reg 32 10) (p6 [(11, 0x80000000#64)] [] 0x01F5D513#32 rv32) = some 1#32 := by decide

/-- Worked examples of R612 on both widths, R615, R619. -/
theorem test_rv_shifts :
    rvSee (fun p => p.reg 32 10) (p6 [(11, 1#64), (12, 0x21#64)] [] 0x00C59533#32 rv32) = some 2#32 ∧
    rvSee (fun p => p.reg 64 10) (p6 [(11, 1#64), (12, 0x21#64)] [] 0x00C59533#32) = some 0x200000000#64 ∧
    rvSee (fun p => p.reg 64 10) (p6 [(11, 1#64), (12, 31#64)] [] 0x00C5953B#32) = some 0xFFFFFFFF80000000#64 ∧
    rvSee (fun p => p.reg 64 10) (p6 [(11, 0x80000000#64), (12, 4#64)] [] 0x40C5D53B#32)
      = some 0xFFFFFFFFF8000000#64 := by decide

/-- V11 and R622's worked example. -/
theorem test_rv_remw :
    rvSee (fun p => p.reg 64 10) (p6 [(11, 0x80000000#64), (12, 0xFFFFFFFF#64)] [] 0x02C5E53B#32) = some 0#64 ∧
    rvSee (fun p => p.reg 64 10) (p6 [(11, -7), (12, 2#64)] [] 0x02C5E53B#32) = some (-1) := by decide

/-- V11b; and completed where the parameter says so, the remainder free. -/
theorem test_rv_zero_divisor :
    refusedAs (step (p6 [(11, 7#64)] [] 0x02C5E53B#32)) = some .rvZeroDivisor ∧
    rvSee (fun p => p.pc) (p6 [(11, 7#64)] [] 0x02C5E53B#32 fun p =>
      { p with params := { p.params with unsettled := .complete } }) = some 0x1004#64 := by decide

/-- R623's worked examples. -/
theorem test_rv_remuw :
    rvSee (fun p => p.reg 64 10) (p6 [(11, 0xFFFFFFFF#64), (12, 0x80000001#64)] [] 0x02C5F53B#32) = some 0x7FFFFFFE#64 ∧
    rvSee (fun p => p.reg 64 10) (p6 [(11, 0xFFFFFFFE#64), (12, 0xFFFFFFFF#64)] [] 0x02C5F53B#32)
      = some 0xFFFFFFFFFFFFFFFE#64 := by decide

/-- V7, V7b, V7c, V7d. -/
theorem test_rv_bne :
    rvSee (fun p => p.pc) (p6 [] [] 0x00A51463#32) = some 0x1004#64 ∧
    rvSee (fun p => p.pc) (p6 [(10, 1#64)] [] 0x7EB51FE3#32) = some 0x1FFE#64 ∧
    refusedAs (step (p6 [(10, 1#64)] [] 0x7EB51FE3#32 noC)) = some .rvMisalignedTarget ∧
    rvSee (fun p => p.pc) (p6 [(10, 1#64)] [] 0x80B51063#32) = some 0#64 := by decide

/-- V8, V8b. -/
theorem test_rv_lr :
    rvSee (fun p => (p.reg 64 10, p.reservation)) (p6 [(11, 0x2000#64)] [(0x2000, [1, 0, 0, 0x80])] 0x1605A52F#32)
      = some (0xFFFFFFFF80000001#64, some ⟨0x2000, 4⟩) ∧
    refusedAs (step (p6 [(11, 0x2004#64)] [] 0x1005B52F#32)) = some .rvMisalignedAtomic := by decide

/-- V9; and V9b without its free error code. -/
theorem test_rv_sc :
    rvSee (fun p => (p.reg 64 10, p.reservation, p.mem.get 0x2000))
      (p6 [(10, 9#64), (11, 0x2000#64)] [] 0x18A5B52F#32 fun p => { p with reservation := some ⟨0x2000, 8⟩ })
      = some (0#64, none, 9#8) ∧
    rvSee (fun p => p.mem.get 0x2000) (p6 [(11, 0x2000#64), (12, 9#64)] [] 0x18C5B6AF#32) = some 0#8 := by decide

/-- V9c, for a word reservation at either half. -/
theorem test_rv_sc_word_reservation :
    ∀ a ∈ [0x2000, 0x2004], refusedAs (step (p6 [(11, 0x2000#64)] [] 0x18C5B6AF#32 fun p =>
      { p with reservation := some ⟨a, 4⟩ })) = some .rvWordReservation := by decide

/-- D22: a store over the reservation is refused, one right after it is not. -/
theorem test_rv_store_over_reservation :
    refusedAs (step (p6 [(11, 0x2004#64)] [] 0x00C5A423#32 fun p => { p with reservation := some ⟨0x2008, 8⟩ }))
      = some .rvReservedStore ∧
    rvSee (fun p => p.reservation) (p6 [(11, 0x2008#64)] [] 0x00C5A423#32 fun p =>
      { p with reservation := some ⟨0x2008, 8⟩ }) = some (some ⟨0x2008, 8⟩) := by decide

/-- R120: an access fault that depends on the size. -/
theorem test_rv_fault_by_size :
    let faults (p : RvState) : RvState :=
      { p with params := { p.params with accessFaults := [⟨⟨0x2008, 1⟩, some 4, .store⟩] } }
    raisedBy (step (p6 [(11, 0x2000#64)] [] 0x00C5A423#32 faults)) = some (.rvAccessFault .store 0x2008) ∧
    rvSee (fun p => p.pc) (p6 [(11, 0x2008#64)] [] 0x00C59023#32 faults) = some 0x1004#64 := by decide

/-- V10. -/
theorem test_rv_amoadd :
    rvSee (fun p => (p.reg 64 12, p.mem.get 0x2000)) (p6 [(11, 0x2000#64), (12, 3#64)] [(0x2000, [5])] 0x00C5B62F#32)
    = some (5#64, 8#8) := by decide

/-- V30, V32b. -/
theorem test_rv_compressed_add :
    rvSee (fun p => (p.reg 64 1, p.pc)) (p6 [(1, 3#64)] [] 0x9086#32) = some (6#64, 0x1002#64) ∧
    rvSee (fun p => p.reg 64 10) (p6 [] [] 0x1501#32) = some 0xFFFFFFFFFFFFFFE0#64 := by decide

/-- V33, V34. -/
theorem test_rv_compressed_sp :
    rvSee (fun p => p.reg 64 2) (p6 [(2, 0x8000#64)] [] 0x617D#32) = some 0x81F0#64 ∧
    rvSee (fun p => p.reg 64 2) (p6 [(2, 0x8000#64)] [] 0x717D#32) = some 0x7FF0#64 ∧
    rvSee (fun p => p.reg 64 8) (p6 [(2, 0x8000#64)] [] 0x0040#32) = some 0x8004#64 ∧
    rvSee (fun p => p.reg 64 15) (p6 [(2, 0x8000#64)] [] 0x1FFC#32) = some 0x83FC#64 := by decide

/-- V31, V35, V40: refused. -/
theorem test_rv_refused :
    refusedAs (step (p6 [] [] 0x9502#32)) = some (.undecodable .rvInvalidCompressed) ∧
    refusedAs (step (p6 [] [] 0#32)) = some (.undecodable .rvInvalidCompressed) ∧
    refusedAs (step (p6 [] [] 0x000080E7#32)) = some (.undecodable .notListed) := by decide

/-- V36, V36b. -/
theorem test_rv_mret :
    rvSee (fun p => (p.pc, p.priv, p.mie, p.mpie, p.mpp)) (p6 [] [] 0x30200073#32 fun p =>
      { p with mpp := 3, mie := true, mepc := 0x4000 }) = some (0x4000#64, .machine, false, true, 0#2) ∧
    refusedAs (step (p6 [] [] 0x30200073#32 fun p => { p with priv := .supervisor })) = some .rvPrivilege := by decide

/-- V37 and R644's worked example. -/
theorem test_rv_sret :
    rvSee (fun p => (p.pc, p.priv, p.sie, p.spie, p.spp)) (p6 [] [] 0x10200073#32 fun p =>
      { p with priv := .supervisor, spp := 1, spie := true, sepc := 0x4000 })
      = some (0x4000#64, .supervisor, true, true, 0#1) ∧
    rvSee (fun p => (p.pc, p.priv, p.sie, p.spie, p.spp)) (p6 [] [] 0x10200073#32 fun p =>
      { p with priv := .supervisor, sie := true, sepc := 0x4000 }) = some (0x4000#64, .user, false, true, 0#1) := by decide

/-- V38 and R656's worked example. -/
theorem test_rv_ret :
    refusedAs (step (p6 [(1, 0x2001#64)] [] 0x00008067#32)) = some .rvMisalignedTarget ∧
    rvSee (fun p => p.pc) (p6 [(1, 0x2000#64)] [] 0x00008067#32) = some 0x2000#64 := by decide

/-- Worked examples of R651, R652, R654. -/
theorem test_rv_unary :
    rvSee (fun p => p.reg 64 10) (p6 [(11, 1#64)] [] 0x40B00533#32) = some 0xFFFFFFFFFFFFFFFF#64 ∧
    rvSee (fun p => p.reg 64 10) (p6 [(11, 0x100000001#64)] [] 0x40B0053B#32) = some 0xFFFFFFFFFFFFFFFF#64 ∧
    rvSee (fun p => p.reg 32 10) (p6 [(11, 0x0F0F0F0F#64)] [] 0xFFF5C513#32 rv32) = some 0xF0F0F0F0#32 := by decide

/-! ### Decoding: one word a constructor, written out from spec/30_encoding.md -/

/-- Each byte string decodes, in a 32-bit code segment, to the instruction beside it. -/
abbrev Reads1 (l : List (List Byte × Instr)) : Prop := ∀ e ∈ l, decode .p1 true (.bytes e.1) = .ok e.2

/-- Each word decodes to the instruction beside it. -/
abbrev ReadsW (p : Part) (l : List (Word × Instr)) : Prop := ∀ e ∈ l, decode p false (.word e.1) = .ok e.2

/-- R151 to R159, rows of PUSH. -/
theorem test_decode_push : Reads1 [
    ([0xFF, 0x30], .x86PushRm (.mem (.base32 0 .none))), ([0x53], .x86PushReg 3), ([0x6A, 0xFE], .x86PushImm8 0xFE),
    ([0x68, 0x44, 0x33, 0x22, 0x11], .x86PushImm 0x11223344), ([0x0E], .x86PushCs), ([0x16], .x86PushSs),
    ([0x1E], .x86PushDs), ([0x06], .x86PushEs), ([0x0F, 0xA0], .x86PushFs), ([0x0F, 0xA8], .x86PushGs)] := by decide

/-- Rows of XOR. -/
theorem test_decode_xor : Reads1 [
    ([0x34, 0x12], .x86XorAlImm8 0x12), ([0x35, 0x44, 0x33, 0x22, 0x11], .x86XorAxImm 0x11223344),
    ([0x80, 0x33, 0x12], .x86XorRm8Imm8 (.mem (.base32 3 .none)) 0x12),
    ([0x81, 0xF0, 0x44, 0x33, 0x22, 0x11], .x86XorRmImm (.reg 0) 0x11223344),
    ([0x83, 0xF1, 0xFE], .x86XorRmImm8 (.reg 1) 0xFE), ([0x30, 0xE0], .x86XorRm8R8 (.reg 0) 4),
    ([0x31, 0xD3], .x86XorRmR (.reg 3) 2), ([0x32, 0x03], .x86XorR8Rm8 0 (.mem (.base32 3 .none))),
    ([0x33, 0x44, 0x24, 4], .x86XorRRm 0 (.mem (.sib 0 4 4 (.d8 4))))] := by decide

/-- Rows of MOV. -/
theorem test_decode_mov : Reads1 [
    ([0x88, 0x0B], .x86MovRm8R8 (.mem (.base32 3 .none)) 1), ([0x89, 0x0C, 0xD3], .x86MovRmR (.mem (.sib 3 2 3 .none)) 1),
    ([0x8A, 0xE3], .x86MovR8Rm8 4 (.reg 3)), ([0x8B, 0x0D, 0, 0x10, 0, 0], .x86MovRRm 1 (.mem (.disp32 0x1000))),
    ([0x8C, 0x1B], .x86MovRmSreg (.mem (.base32 3 .none)) 3), ([0x8E, 0xC3], .x86MovSregRm 0 (.reg 3)),
    ([0xA0, 0, 0x10, 0, 0], .x86MovAlMoffs 0x1000), ([0xA1, 0, 0x10, 0, 0], .x86MovAxMoffs 0x1000),
    ([0xA2, 0, 0x10, 0, 0], .x86MovMoffsAl 0x1000), ([0xA3, 0, 0x10, 0, 0], .x86MovMoffsAx 0x1000),
    ([0xB4, 0x7F], .x86MovR8Imm8 4 0x7F), ([0xBA, 0x44, 0x33, 0x22, 0x11], .x86MovRImm 2 0x11223344),
    ([0xC6, 0x43, 5, 0xAA], .x86MovRm8Imm8 (.mem (.base32 3 (.d8 5))) 0xAA),
    ([0xC7, 0x04, 0x8D, 0, 0x10, 0, 0, 0x44, 0x33, 0x22, 0x11],
      .x86MovRmImm (.mem (.sibNoBase 2 1 0x1000)) 0x11223344)] := by decide

/-- Rows of ADD. -/
theorem test_decode_add : Reads1 [
    ([0x04, 0x12], .x86AddAlImm8 0x12), ([0x05, 0x44, 0x33, 0x22, 0x11], .x86AddAxImm 0x11223344),
    ([0x80, 0xC1, 0x12], .x86AddRm8Imm8 (.reg 1) 0x12),
    ([0x81, 0xC1, 0x44, 0x33, 0x22, 0x11], .x86AddRmImm (.reg 1) 0x11223344),
    ([0x83, 0xC1, 0xFE], .x86AddRmImm8 (.reg 1) 0xFE), ([0x00, 0xD1], .x86AddRm8R8 (.reg 1) 2),
    ([0x01, 0xD1], .x86AddRmR (.reg 1) 2), ([0x02, 0xD1], .x86AddR8Rm8 2 (.reg 1)),
    ([0x03, 0x95, 0, 1, 0, 0], .x86AddRRm 2 (.mem (.base32 5 (.d32 0x100))))] := by decide

/-- Rows of ADC. -/
theorem test_decode_adc : Reads1 [
    ([0x14, 0x12], .x86AdcAlImm8 0x12), ([0x15, 0x44, 0x33, 0x22, 0x11], .x86AdcAxImm 0x11223344),
    ([0x80, 0xD1, 0x12], .x86AdcRm8Imm8 (.reg 1) 0x12),
    ([0x81, 0xD1, 0x44, 0x33, 0x22, 0x11], .x86AdcRmImm (.reg 1) 0x11223344),
    ([0x83, 0xD1, 0xFE], .x86AdcRmImm8 (.reg 1) 0xFE), ([0x10, 0xD1], .x86AdcRm8R8 (.reg 1) 2),
    ([0x11, 0xD1], .x86AdcRmR (.reg 1) 2), ([0x12, 0xD1], .x86AdcR8Rm8 2 (.reg 1)),
    ([0x13, 0xD1], .x86AdcRRm 2 (.reg 1))] := by decide

/-- Rows of LOOP, SHRD, XCHG, POP and RET. -/
theorem test_decode_rest : Reads1 [
    ([0xE2, 0xFE], .x86Loop 0xFE), ([0xE1, 0xFE], .x86Loope 0xFE), ([0xE0, 0xFE], .x86Loopne 0xFE),
    ([0x0F, 0xAC, 0xD8, 1], .x86ShrdImm (.reg 0) 3 1), ([0x0F, 0xAD, 0xD8], .x86ShrdCl (.reg 0) 3),
    ([0x93], .x86XchgAxR 3), ([0x86, 0xE0], .x86XchgRm8R8 (.reg 0) 4), ([0x87, 0x0B], .x86XchgRmR (.mem (.base32 3 .none)) 1),
    ([0x8F, 0x04, 0x24], .x86PopMem (.sib 0 4 4 .none)), ([0x5B], .x86PopReg 3), ([0x1F], .x86PopDs), ([0x07], .x86PopEs),
    ([0x0F, 0xA1], .x86PopFs), ([0x0F, 0xA9], .x86PopGs), ([0x17], .x86PopSs), ([0xC3], .x86Ret),
    ([0xC2, 8, 0], .x86RetImm 8), ([0xCB], .x86RetFar), ([0xCA, 8, 0], .x86RetFarImm 8)] := by decide

/-- R158: the prefixes; with 66 and 67 the 16-bit immediate and R156's 16-bit operands. -/
theorem test_decode_prefixes : Reads1 [
    ([0x66, 0x68, 0x44, 0x33], .x86OpSize (.x86PushImm 0x3344)), ([0x67, 0x8A, 0x47, 8],
      .x86AddrSize (.x86MovR8Rm8 0 (.mem (.base16 7 (.d8 8))))),
    ([0x67, 0x8A, 0x0E, 0, 0x10], .x86AddrSize (.x86MovR8Rm8 1 (.mem (.disp16 0x1000)))),
    ([0x2E, 0x53], .x86SegCs (.x86PushReg 3)), ([0x36, 0x53], .x86SegSs (.x86PushReg 3)),
    ([0x3E, 0x53], .x86SegDs (.x86PushReg 3)), ([0x26, 0x53], .x86SegEs (.x86PushReg 3)),
    ([0x64, 0x53], .x86SegFs (.x86PushReg 3)), ([0x65, 0x53], .x86SegGs (.x86PushReg 3)), ([0xF0], .x86Lock),
    ([0x65, 0x66, 0x53], .x86SegGs (.x86OpSize (.x86PushReg 3)))] := by decide

/-- R165 to R171. -/
theorem test_decode_arm : ReadsW .p2 [
    (0xE2512A03, .armSubImm .al true 1 2 10 3), (0xE0512183, .armSubLsl .al true 1 2 3 3),
    (0xE05121A3, .armSubLsr .al true 1 2 3 3), (0x12812A03, .armAddImm .ne false 1 2 10 3),
    (0x10812183, .armAddLsl .ne false 1 2 3 3), (0x108121A3, .armAddLsr .ne false 1 2 3 3),
    (0xE2B12A03, .armAdcImm .al true 1 2 10 3), (0xE0B12183, .armAdcLsl .al true 1 2 3 3),
    (0xE0B121A3, .armAdcLsr .al true 1 2 3 3), (0xE3912A03, .armOrrImm .al true 1 2 10 3),
    (0xE1912183, .armOrrLsl .al true 1 2 3 3), (0xE19121A3, .armOrrLsr .al true 1 2 3 3),
    (0xE3B02A03, .armMovImm .al true 2 10 3), (0xE1B02183, .armMovLsl .al true 2 3 3),
    (0xE1B021A3, .armMovLsr .al true 2 3 3), (0xE4912004, .armLdrImm .al .post true 1 2 4),
    (0xE7312183, .armLdrReg .al .pre false 1 2 3 3), (0x0AFFFFFE, .armB .eq 0xFFFFFE), (0xEB000002, .armBl .al 2),
    (0xE12FFF13, .armBx .al 3)] := by decide

/-- R175 to R184; li, blr, mtxer, mtlr and mtctr read as their core instructions (R240). -/
theorem test_decode_ppc : ReadsW .p3 [
    (0x38640010, .ppcAddi 3 4 0x10), (0x38600010, .ppcAddi 3 0 0x10), (0x42000013, .ppcBc 16 0 4 true true),
    (0x4D820021, .ppcBclr 12 2 true), (0x4E800020, .ppcBclr 20 0 false), (0x5083442F, .ppcRlwimi 3 4 8 16 23 true),
    (0x5483442F, .ppcRlwinm 3 4 8 16 23 true), (0x7C642C15, .ppcAddc 3 4 5 true true),
    (0x7C640194, .ppcAddze 3 4 false false), (0x7C7A03A6, .ppcMtspr 26 3), (0x7C6103A6, .ppcMtspr 1 3),
    (0x7C6803A6, .ppcMtspr 8 3), (0x7C6903A6, .ppcMtspr 9 3), (0x8464FFFC, .ppcLwzu 3 4 0xFFFC)] := by decide

/-- R185 to R190; nop, cmp, jmp, call, ret, retl and mov read as their core instructions (R240). -/
theorem test_decode_sparc : ReadsW .p4 [
    (0x32800002, .sparcBicc true .ne 2), (0x033FFFFF, .sparcSethi 0x3FFFFF 1), (0x01000000, .sparcSethi 0 0),
    (0x86006FFF, .sparcAdd 1 (.imm 0xFFF) 3), (0x86104002, .sparcOr 1 (.reg 2) 3), (0x86406000, .sparcAddx 1 (.imm 0) 3),
    (0x86804002, .sparcAddcc 1 (.reg 2) 3), (0x86A04002, .sparcSubcc 1 (.reg 2) 3), (0x8728601F, .sparcSll 1 (.imm 31) 3),
    (0x87304002, .sparcSrl 1 (.reg 2) 3), (0x83C04002, .sparcJmpl 1 (.reg 2) 1), (0xC6004002, .sparcLd 1 (.reg 2) 3),
    (0x80A04002, .sparcSubcc 1 (.reg 2) 0), (0x81C04002, .sparcJmpl 1 (.reg 2) 0), (0x9FC04002, .sparcJmpl 1 (.reg 2) 15),
    (0x81C7E008, .sparcJmpl 31 (.imm 8) 0), (0x81C3E008, .sparcJmpl 15 (.imm 8) 0), (0x86102005, .sparcOr 0 (.imm 5) 3)] := by
  decide

/-- R195 to R199; move and li read as their core instructions (R240). -/
theorem test_decode_mips : ReadsW .p5 [
    (0x24820001, .mipsAddiu 2 4 1), (0x3482FFFF, .mipsOri 2 4 0xFFFF), (0x8C820004, .mipsLw 2 4 4),
    (0x1485FFFF, .mipsBne 4 5 0xFFFF), (0x00851021, .mipsAddu 2 4 5), (0x0085102B, .mipsSltu 2 4 5),
    (0x00800008, .mipsJrPre 4), (0x00800009, .mipsJrR6 4), (0x7C821F00, .mipsExt 2 4 3 28), (0x7C82FF04, .mipsIns 2 4 31 28),
    (0x00801021, .mipsAddu 2 4 0), (0x24020005, .mipsAddiu 2 0 5), (0x34028000, .mipsOri 2 0 0x8000)] := by decide

/-- R220 to R225, loads, stores and immediates. -/
theorem test_decode_riscv_memory : ReadsW .p6 [
    (0xFFE59503, .rvLh 10 0xFFE 11), (0xFFC5A503, .rvLw 10 0xFFC 11), (0x0085B503, .rvLd 10 8 11),
    (0x0085D503, .rvLhu 10 8 11), (0x0085E503, .rvLwu 10 8 11), (0xFFF58513, .rvAddi 10 11 0xFFF),
    (0x03F59513, .rvSlli 10 11 63), (0xFFF5A513, .rvSlti 10 11 0xFFF), (0xFFF5B513, .rvSltiu 10 11 0xFFF),
    (0x01F5D513, .rvSrli 10 11 31), (0xFFF5E513, .rvOri 10 11 0xFFF), (0x0015851B, .rvAddiw 10 11 1),
    (0x0035951B, .rvSlliw 10 11 3), (0x0035D51B, .rvSrliw 10 11 3), (0xFEC58FA3, .rvSb 12 0xFFF 11),
    (0x00C59023, .rvSh 12 0 11), (0x00C5A423, .rvSw 12 8 11)] := by decide

/-- R220 to R225, registers, branches, atomics, system and names (bnez, li, nop read as their core, R240). -/
theorem test_decode_riscv_registers : ReadsW .p6 [
    (0x00C58533, .rvAdd 10 11 12), (0x00C59533, .rvSll 10 11 12), (0x00C5A533, .rvSlt 10 11 12),
    (0x00C5B533, .rvSltu 10 11 12), (0x00C5D533, .rvSrl 10 11 12), (0x00C5E533, .rvOr 10 11 12), (0x80000537, .rvLui 10 0x80000),
    (0x00C5853B, .rvAddw 10 11 12), (0x00C5953B, .rvSllw 10 11 12), (0x40C5D53B, .rvSraw 10 11 12),
    (0x02C5E53B, .rvRemw 10 11 12), (0x02C5F53B, .rvRemuw 10 11 12), (0x7EB51FE3, .rvBne 10 11 0x7FF),
    (0x1605A52F, .rvLrW true true 10 11), (0x1005B52F, .rvLrD false false 10 11), (0x18C5B6AF, .rvScD false false 13 12 11),
    (0x00C5B62F, .rvAmoaddD false false 12 12 11), (0x30200073, .rvMret), (0x10200073, .rvSret), (0x40B00533, .rvNeg 10 11),
    (0x40B0053B, .rvNegw 10 11), (0xFFF5C513, .rvNot 10 11), (0xC0002573, .rvRdcycle 10), (0x00008067, .rvRet),
    (0x00000013, .rvAddi 0 0 0), (0x00051463, .rvBne 10 0 4), (0xFFF00513, .rvAddi 10 0 0xFFF)] := by decide

/-- R226, R227: the compressed instructions. -/
theorem test_decode_riscv_compressed :
    decode .p6 false (.half 0x952E#16) = .ok (.rvCAdd 10 11) ∧ decode .p6 false (.half 0x1501#16) = .ok (.rvCAddi 10 0x20) ∧
    decode .p6 false (.half 0x617D#16) = .ok (.rvCAddi16sp 0x1F) ∧
    decode .p6 false (.half 0x1FFC#16) = .ok (.rvCAddi4spn 7 0xFF) := by decide

/-- The encoder writes the assembler names' words. -/
theorem test_encode_names :
    [Instr.ppcLi 3 0x10, .ppcBlr, .ppcMtxer 3, .ppcMtlr 3, .ppcMtctr 3, .sparcNop, .sparcCmp 1 (.reg 2), .sparcRet, .sparcRetl,
      .mipsMove 2 4, .mipsLiAddiu 2 5, .mipsLiOri 2 0x8000, .rvNop, .rvBnez 10 4, .rvLi 10 0xFFF].map (encode false) =
    ([0x38600010, 0x4E800020, 0x7C6103A6, 0x7C6803A6, 0x7C6903A6, 0x01000000, 0x80A04002, 0x81C7E008, 0x81C3E008,
      0x00801021, 0x24020005, 0x34028000, 0x00000013, 0x00051463, 0xFFF00513] : List Word).map Code.word := by decide

/-! ### Well-formedness: each check refuses an ill-formed term -/

/-- The address sizes, the bases that need a displacement or a SIB byte. -/
theorem test_wf_memory :
    (X86Mem.disp32 0).wf false = false ∧ (X86Mem.base32 0 .none).wf false = false ∧ (X86Mem.base32 4 .none).wf true = false ∧
    (X86Mem.base32 5 .none).wf true = false ∧ (X86Mem.sib 0 0 0 .none).wf false = false ∧
    (X86Mem.sib 0 0 5 .none).wf true = false ∧ (X86Mem.sibNoBase 0 0 0).wf false = false ∧ (X86Mem.disp16 0).wf true = false ∧
    (X86Mem.base16 0 .none).wf true = false ∧ (X86Mem.base16 6 .none).wf false = false := by decide

/-- Memory operands, immediates and offsets of the wrong size inside instructions. -/
theorem test_wf_operands :
    (∀ i ∈ [Instr.x86PushRm (.mem (.disp16 0)), .x86XorRmImm (.mem (.disp16 0)) 0, .x86PopMem (.disp16 0)],
      i.wf true = false) ∧
    (∀ i ∈ [Instr.x86PushImm 0x10000, .x86XorRmImm (.reg 0) 0x10000, .x86MovAlMoffs 0x10000], i.wf false = false) := by decide

/-- A prefix twice, a second override, an instruction of another part. -/
theorem test_wf_prefixes :
    ∀ i ∈ [Instr.x86OpSize (.x86OpSize .x86Ret), .x86AddrSize (.x86AddrSize .x86Ret), .x86SegCs (.x86SegSs .x86Ret),
      .x86SegSs (.x86SegDs .x86Ret), .x86SegDs (.x86SegEs .x86Ret), .x86SegEs (.x86SegFs .x86Ret),
      .x86SegFs (.x86SegGs .x86Ret), .x86SegGs (.x86SegCs .x86Ret), .x86OpSize .rvRet], i.wf true = false := by decide

/-- LDR's offset register, and the compressed formats' "Invalid when". -/
theorem test_wf_words :
    ∀ i ∈ [Instr.armLdrReg .al .offset true 1 2 0 15, .rvCAdd 0 1, .rvCAdd 1 0, .rvCAddi16sp 0, .rvCAddi4spn 0 0],
      i.wf false = false := by decide

/-! ### The hypotheses of the statements are met

One theorem a statement of Sys2Proof/Certificates/Slice0/Obligations.lean that has hypotheses: concrete states and
operands that meet them together, clause by clause, at the ends of ranges where there are ranges. -/

-- `decide` on a witness looks for one instance over all its clauses.
set_option synthInstance.maxSize 2000

/-- P1 after reset, changed by `f`. -/
def x86Of (f : X86State → X86State) : State := { State.reset with x86 := f .reset }

/-- P1 with another SS descriptor. -/
def withSs (f : X86Descriptor → X86Descriptor) (x : X86State) : X86State :=
  { x with segs := { x.segs with ss := { x.segs.ss with desc := f x.segs.ss.desc } } }

/-- P1 with another ESP. -/
def withEsp (v : Word) (x : X86State) : X86State := x.writeReg 4 v

/-- P1 with the operand-size prefix in force. -/
def withOp (x : X86State) : X86State := { x with pfx := ⟨true, false, none⟩ }

/-- P1 with a page that faults on the listed kinds of access. -/
def withFault (a n : Nat) (x : X86State)
    (kinds : List X86Access := [.read, .write, .stackRead, .stackWrite, .fetch]) : X86State :=
  { x with params := { x.params with seg := .based [⟨⟨a, n⟩, kinds, .fault 4⟩] } }

/-- DS not writable. -/
def dsReadOnly (x : X86State) : X86State :=
  { x with segs := { x.segs with ds := { x.segs.ds with desc := { x.segs.ds.desc with writable := false } } } }

/-- Real-address mode. -/
def realMode (x : X86State) : X86State := { x with pe := false }

/-- P1 at privilege level 3 with alignment checking enabled. -/
def checked (x : X86State) : X86State := { x with alignCheck := true, cpl := 3 }

/-- DS null. -/
def dsNull (x : X86State) : X86State := { x with segs := { x.segs with ds := { x.segs.ds with sel := 0, null := true } } }

/-- Code segment limit. -/
def csLimit (l : Word) (x : X86State) : X86State :=
  { x with segs := { x.segs with cs := { x.segs.cs with desc := { x.segs.cs.desc with limit := l } } } }

/-- What `X86State.Reaches` says of a memory operand. -/
abbrev ReachesMem (x : X86State) (w : Nat) (m : X86Mem) (kind : X86Access) : Prop :=
  x.Allows (x.segOf m) (x.ea m) (w / 8) kind

/-- It says so. -/
theorem test_reachesMem (x : X86State) (w : Nat) (m : X86Mem) (kind : X86Access) :
    x.Reaches w (.mem m) kind ↔ ReachesMem x w m kind := Iff.rfl

/-- One clause a part: bytes at the program counter, fetchable, that decode. -/
theorem test_witness_StepRunsDecoded :
    (let s := p1 [] [] [0x54]
     s.part = .p1 ∧ s.x86.shutdown = false ∧ (∀ j, j < 15 → s.x86.Fetchable (s.x86.eip + BitVec.ofNat 32 j)) ∧
     decode .p1 s.x86.segs.cs.desc.big (.bytes ((List.range 15).map fun j =>
       Memory.get s.x86.mem (s.x86.codeAt (s.x86.eip + BitVec.ofNat 32 j)))) = .ok (.x86PushReg 4)) ∧
    (let s := p2 [] [] 0 0xE1A0000F
     s.part = .p2 ∧ s.arm.t = false ∧ s.arm.pc.extractLsb' 0 2 = 0#2 ∧ decode .p2 false (.word
       (Memory.read s.arm.params.order top32 32 s.arm.mem s.arm.pc.toNat)) = .ok (.armMovLsl .al false 0 0 15)) ∧
    (let s := p3 [] [] 0x38640010
     s.part = .p3 ∧ decode .p3 false (.word (Memory.read .big top32 32 s.ppc.mem s.ppc.cia.toNat))
       = .ok (.ppcAddi 3 4 0x10)) ∧
    (let s := p4 [] [] 0 0x86006FFF
     s.part = .p4 ∧ s.sparc.annulNext = false ∧
     decode .p4 false (.word (Memory.read .big top32 32 s.sparc.mem s.sparc.pc.toNat))
       = .ok (.sparcAdd 1 (.imm 0xFFF) 3)) ∧
    (let s := p5 [] [] 0x24820001
     s.part = .p5 ∧ s.mips.isaMode = 0#1 ∧ s.mips.pc.extractLsb' 0 2 = 0#2 ∧ decode .p5 false (.word
       (Memory.read s.mips.params.order top32 32 s.mips.mem s.mips.pc.toNat)) = .ok (.mipsAddiu 2 4 1)) ∧
    (let s := p6 [] [] 0x9086
     s.part = .p6 ∧ (∀ j, j < 2 → (s.rv.pc.toNat + j) % s.rv.top ∉ s.rv.stored) ∧
     (Memory.read .little s.rv.top 16 s.rv.mem s.rv.pc.toNat).extractLsb' 0 2 ≠ 3#2 ∧
     decode .p6 false (.half (Memory.read .little s.rv.top 16 s.rv.mem s.rv.pc.toNat)) = .ok (.rvCAdd 1 1)) ∧
    (let s := p6 [] [] 0x00C58533
     s.part = .p6 ∧ (∀ j, j < 4 → (s.rv.pc.toNat + j) % s.rv.top ∉ s.rv.stored) ∧
     (Memory.read .little s.rv.top 16 s.rv.mem s.rv.pc.toNat).extractLsb' 0 2 = 3#2 ∧
     decode .p6 false (.word (Memory.read .little s.rv.top 32 s.rv.mem s.rv.pc.toNat)) = .ok (.rvAdd 10 11 12)) := by
  decide

/-- Bytes that decode to nothing in every part, at the code-segment limit in P1; a byte past the limit that the decoder
needs; T = 1, ISAMode = 1 and unaligned PCs. -/
theorem test_witness_StepStops :
    (let s := p1 [] [] [0xF4] (csLimit 0x100)
     s.x86.shutdown = false ∧ (∀ j, j < 1 → s.x86.Fetchable (s.x86.eip + BitVec.ofNat 32 j)) ∧
     decode .p1 s.x86.segs.cs.desc.big (.bytes ((List.range 1).map fun j =>
       Memory.get s.x86.mem (s.x86.codeAt (s.x86.eip + BitVec.ofNat 32 j)))) = .error .notListed) ∧
    (let s := p1 [] [] [0x68] (csLimit 0x100)
     (∀ j, j < 1 → s.x86.Fetchable (s.x86.eip + BitVec.ofNat 32 j)) ∧
     decode .p1 s.x86.segs.cs.desc.big (.bytes ((List.range 1).map fun j =>
       Memory.get s.x86.mem (s.x86.codeAt (s.x86.eip + BitVec.ofNat 32 j)))) = .error .short ∧
     s.x86.xseg .cs (s.x86.eip + BitVec.ofNat 32 1) 1 .fetch = .error (.gp 0)) ∧
    decode .p2 false (.word 0xFFFFFFFF) = .error .armNever ∧ decode .p3 false (.word 0) = .error .notListed ∧
    decode .p4 false (.word 0) = .error .notListed ∧ decode .p5 false (.word 0xFFFFFFFF) = .error .notListed ∧
    decode .p6 false (.half 0) = .error .rvInvalidCompressed ∧
    decode .p6 false (.word 0xFFFFFFFF) = .error .notListed ∧
    (p2 [] [] 0 0 fun a => { a with cpsr := 0x20 }).arm.t = true ∧
    (ArmState.setReg .reset 15 2).pc.extractLsb' 0 2 ≠ 0#2 ∧
    (p5 [] [] 0 fun p => { p with isaMode := 1 }).mips.isaMode = 1#1 ∧
    ({ MipsState.reset with pc := 2 } : MipsState).pc.extractLsb' 0 2 ≠ 0#2 := by decide

/-- Well-formed terms, with prefixes and with the widest operands; and bytes that decode. -/
theorem test_witness_encodings :
    Instr.wfX86 true .none (.x86SegGs (.x86OpSize (.x86MovRmImm (.mem (.sib 3 4 5 (.d32 (-1)))) 0xFFFF))) = true ∧
    decode .p1 true (.bytes [0x66, 0x83, 0x55, 0xFC, 0x80, 0x90]) =
      .ok (.x86OpSize (.x86AdcRmImm8 (.mem (.base32 5 (.d8 0xFC))) 0x80)) ∧
    (∀ i ∈ [Instr.armLdrReg .le .post false 15 15 31 14, .ppcBlr, .sparcMov (.imm 0x1FFF) 31, .mipsLiOri 31 0xFFFF,
      .rvCAddi4spn 7 0xFF], i.part ≠ .p1 ∧ i.wfWord = true) := by decide

/-- In every part a state that meets the invariant and steps; for StepChangesOnePart too. -/
theorem test_witness_StepKeepsInvariant :
    ∀ s ∈ [p1 [(4, 0x1000#32)] [] [0x54], p2 [] [] 0 0xE1A0000F, p3 [] [] 0x38640010, p4 [] [] 0 0x86006FFF,
      p5 [] [] 0x24820001, p6 [] [] 0x9086, p6 [] [] 0x00C58533 rv32], s.Inv ∧ (nextOf (step s)).isSome = true := by decide

/-- A fault of an instruction; a Data Abort of both LDR forms, before and after the base is indexed. -/
theorem test_witness_ExceptionWritesNothing :
    raisedBy (exec (.x86MovSregRm 1 (.reg 0)) State.reset) = some (.x86 .ud) ∧
    (let s := p2 [(1, 0x1000#32), (3, 1#32)] [] 0 0 fun a =>
       { a with params := { a.params with aborts := [⟨0x1004, 1⟩] } }
     raisedBy (exec (.armLdrImm .al .pre true 1 2 4) s) = some (.armDataAbort 0x1004) ∧
     raisedBy (exec (.armLdrReg .al .offset true 1 2 2 3) s) = some (.armDataAbort 0x1004)) := by decide

/-- Stores in P1 and P6 that change a byte, from canonical memories. -/
theorem test_witness_ChangedBytesAreStored :
    Memory.wf top32 State.reset.x86.mem ∧ Memory.wf State.reset.rv.top State.reset.rv.mem ∧
    (nextOf (exec (.x86PushImm8 1) (x86Of (withEsp 0x1000)))).map (fun t => (t.x86.mem.get 0xFFC, t.x86.stored))
      = some (1, [0xFFC, 0xFFD, 0xFFE, 0xFFF]) ∧
    (nextOf (exec (.rvSb 1 0 0) (p6 [(1, 7#64)] [] 0))).map (fun t => (t.rv.mem.get 0, t.rv.stored))
      = some (7, [0]) := by decide

/-- Code bytes of which the first, or one that a short prefix of an instruction needs, was stored to. -/
theorem test_witness_FetchOfStored :
    (let s (n : Nat) : State := p1 [] [] [0x68, 1, 2, 3, 4] fun x => { x with stored := [0x100 + n] }
     (∀ n ∈ [0, 4], (s n).part = .p1 ∧ (s n).x86.shutdown = false ∧ n < 15 ∧
       (∀ j, j < n → (s n).x86.Fetchable ((s n).x86.eip + BitVec.ofNat 32 j)) ∧
       decode .p1 (s n).x86.segs.cs.desc.big (.bytes ((List.range n).map fun j =>
         Memory.get (s n).x86.mem ((s n).x86.codeAt ((s n).x86.eip + BitVec.ofNat 32 j)))) = .error .short ∧
       (s n).x86.Allows .cs ((s n).x86.eip + BitVec.ofNat 32 n) 1 .fetch ∧
       (s n).x86.codeAt ((s n).x86.eip + BitVec.ofNat 32 n) ∈ (s n).x86.stored)) ∧
    (let s (n : Nat) : State := p6 [] [] 0x00C58533#32 fun p => { p with stored := [0x1000 + n] }
     (s 1).part = .p6 ∧ ((s 1).rv.pc.toNat + 1) % (s 1).rv.top ∈ (s 1).rv.stored ∧
     (Memory.read .little (s 3).rv.top 16 (s 3).rv.mem (s 3).rv.pc.toNat).extractLsb' 0 2 = 3#2 ∧
     ((s 3).rv.pc.toNat + 3) % (s 3).rv.top ∈ (s 3).rv.stored) := by decide

/-- A canonical memory, an access over the end of the address space. -/
theorem test_witness_MemoryReadWrite :
    Memory.wf 16 [(0, 1), (15, 2)] ∧ 0 < 16 ∧ 2 ≤ 16 ∧ Memory.read .little 16 16 [(0, 1), (15, 2)] 15 = 0x0102#16 ∧
    Memory.read .big 16 16 [(0, 1), (15, 2)] 15 = 0x0201#16 ∧
    Memory.write .little 16 16 [] 15 0x0102#16 = [(0, 1), (15, 2)] := by decide

/-- Both stack widths, the 16-bit one at its wrap. -/
theorem test_witness_X86StackPointer :
    (X86State.reset.segs.ss.desc.big = true) ∧
    (let x := withEsp 0xABCD0000 (small .reset)
     x.segs.ss.desc.big = false ∧ x.topOfStack = 0 ∧ x.stackUp (-2) = 0xFFFE) := by decide

/-- In protected mode allowed, and each condition of R106 with none before it: at the last allowed and the first refused
offset, by the kind of the access. -/
theorem test_witness_X86AccessChecks :
    X86State.reset.Protected ∧ (withSs (fun d => { d with limit := 0xFFF }) .reset).Allows .ss 0xFFC 4 .stackWrite ∧
    (dsNull .reset).NullRef .ds ∧
    (let x := dsReadOnly .reset
     ¬ x.NullRef .ds ∧ x.ReadOnly .ds .write ∧ ¬ x.ReadOnly .ds .read) ∧
    (let x := withSs (fun d => { d with limit := 0xFFF }) .reset
     ¬ x.NullRef .ss ∧ ¬ x.ReadOnly .ss .stackWrite ∧ x.Outside .ss 0xFFD 4) ∧
    (let x := checked .reset
     ¬ x.NullRef .ds ∧ ¬ x.ReadOnly .ds .write ∧ ¬ x.Outside .ds 2 4 ∧ x.Unaligned (x.linearOf .ds 2 4 .write) 4) ∧
    (let x := withFault 0x1003 1 .reset [.write]
     ¬ x.NullRef .ds ∧ ¬ x.ReadOnly .ds .write ∧ ¬ x.Outside .ds 0x1000 4 ∧
     ¬ x.Unaligned (x.linearOf .ds 0x1000 4 .write) 4 ∧
     x.pageOf (x.linearOf .ds 0x1000 4 .write) 4 .write = .fault 4 ∧ x.Allows .ds 0x1000 4 .read) := by
  decide

/-- Outside protected mode nothing of R106 is looked at; a paging rule that moves a page; the flat default. -/
theorem test_witness_X86Instances :
    (let x := realMode (dsNull (csLimit 0 .reset))
     ¬ x.Protected ∧ x.NullRef .ds ∧ x.Outside .cs 1 4 ∧ x.Allows .ds 0 4 .write ∧ x.Allows .cs 1 4 .read) ∧
    (let x := { X86State.reset with
       params := { X86State.reset.params with seg := .based [⟨⟨0x1000, 0x1000⟩, [.read], .lies 0x5000⟩] } }
     x.pageOf 0x1FFF 1 .read = .lies 0x5FFF ∧ x.pageOf 0x2000 1 .read = .lies 0x2000) ∧
    X86State.reset.params.seg = .based [] ∧ X86State.reset.segs.ds.desc.base = 0 ∧
    X86State.reset.segs.ds.desc.limit = 0xFFFFFFFF#32 ∧ X86State.reset.segs.ds.desc.writable = true ∧
    ¬ X86State.reset.Unaligned 1 4 := by decide

/-- Refused stack accesses, reads and writes of every size, of operands and of moffs. -/
theorem test_witness_X86AccessFaults :
    (let x := withEsp 0x1000 (withFault 0xFFF 1 .reset)
     32 = x.opSize ∧ ¬ x.Exhausted ∧ x.InStack (x.pushTo 4) 4 ∧
     x.xseg .ss (x.pushTo 4) 4 .stackWrite = .error (.pf 4)) ∧
    (let x := withEsp 0x1000 (withFault 0x1003 1 .reset)
     x.InStack x.topOfStack 4 ∧ ¬ x.Outside .ss x.topOfStack 4 ∧
     x.xseg .ss x.topOfStack 4 .stackRead = .error (.pf 4)) ∧
    (let x := realMode (withEsp 0xFFE (withSs (fun d => { d with limit := 0xFFF }) .reset))
     x.InStack x.topOfStack 4 ∧ x.Outside .ss x.topOfStack 4) ∧
    (∀ n ∈ [1, 2, 4], ∀ k ∈ [X86Access.read, .write], (dsNull .reset).xseg .ds 0 n k = .error (.gp 0)) ∧
    (dsNull .reset).segOf (.disp32 0) = .ds ∧ (dsNull .reset).ea (.disp32 0) = 0 ∧
    (dsNull .reset).moffsSeg = .ds ∧ (dsNull .reset).moffs 0 = 0 ∧
    (let x := dsReadOnly .reset
     ReachesMem x 32 (.disp32 0) .read ∧ ReachesMem x 8 (.disp32 0) .read ∧ x.xseg .ds 0 4 .write = .error (.gp 0) ∧
     x.CanPop (32 / 8) ∧ x.popWraps (.disp32 0) (32 / 8) = false ∧
     (x.setSp (x.popTo (32 / 8))).xseg .ds 0 4 .write = .error (.gp 0)) ∧
    ((5#3 : BitVec 3) ≠ 1 ∧ (5#3).toNat < 6) ∧
    (let x := withEsp 1 (small .reset)
     16 = x.opSize ∧ ¬ x.Exhausted ∧ ¬ x.InStack (x.pushTo 2) 2) ∧
    (let x := withEsp 0xFFFF (small .reset)
     ¬ x.InStack x.topOfStack 2) := by decide

/-- Both operand sizes, on a 32-bit stack that wraps and on a 16-bit stack at its end. -/
theorem test_witness_PushForms :
    (Memory.wf top32 X86State.reset.mem ∧ 32 = X86State.reset.opSize ∧ X86State.reset.CanPush 4 ∧
      ReachesMem .reset 32 (.base32 4 (.d8 4)) .read) ∧
    (16 = (withEsp 0 (small .reset)).opSize ∧ (withEsp 0 (small .reset)).CanPush 2) := by
  refine ⟨⟨?_, ?_, ?_, ?_⟩, ?_, ?_⟩ <;> decide

/-- Both operand sizes. -/
theorem test_witness_PushSelectors :
    (Instr.x86PushGs, X86Sreg.gs) ∈ [(Instr.x86PushCs, X86Sreg.cs), (.x86PushGs, .gs)] ∧
    Memory.wf top32 X86State.reset.mem ∧ ((withOp .reset).op32 = false ∧ (withOp .reset).CanPush 2) ∧
    (X86State.reset.op32 = true ∧ X86State.reset.CanPush 4) := by decide

/-- Real-address mode with ESP and with SP equal to 1; protected mode with ESP equal to 1. -/
theorem test_witness_PushShutsDown :
    ¬ (withEsp 1 .reset).Exhausted ∧
    ({ withEsp 1 .reset with pe := false } : X86State).Exhausted ∧
    ({ withEsp 0x10001 (small .reset) with pe := false } : X86State).Exhausted ∧
    (let t := x86Of fun x => { x with shutdown := true }
     t.part = .p1 ∧ t.x86.shutdown = true) := by decide

/-- XorForms, AddForms, AdcForms, MovForms, ShrdForms, XchgForms: memory operands of every size that can be read and
written (`X86State.Updates`), and moffs. -/
theorem test_witness_forms :
    (Memory.wf top32 X86State.reset.mem ∧ 32 = X86State.reset.opSize ∧ 16 = (withOp .reset).opSize) ∧
    (∀ w ∈ [8, 32], ReachesMem .reset w (.base32 0 (.d32 (-4))) .write) ∧
    (∀ w ∈ [8, 32], ReachesMem .reset w (.base32 0 (.d32 (-4))) .read) ∧
    ReachesMem (withOp .reset) 16 (.base32 0 (.d32 (-2))) .read ∧
    ReachesMem (withOp .reset) 16 (.base32 0 (.d32 (-2))) .write ∧
    X86State.reset.Allows X86State.reset.moffsSeg (X86State.reset.moffs 0xFFFFFFFF) 1 .read ∧
    X86State.reset.Allows X86State.reset.moffsSeg (X86State.reset.moffs 0xFFFFFFFC) 4 .write := by
  refine ⟨?_, ?_, ?_, ?_, ?_, ?_, ?_⟩ <;> decide

/-- Numbers 5 and 6, memory and register, and the 16-bit code segment without a prefix. -/
theorem test_witness_MovFromSelector :
    6 ≤ (6#3).toNat ∧ ((5#3, X86Sreg.gs) ∈ [(0#3, X86Sreg.es), (5#3, .gs)]) ∧
    ReachesMem X86State.reset 16 (.disp32 0x2000) .write ∧
    ((small .reset).segs.cs.desc.big = false ∧ (small .reset).pfx.op = false) := by decide

/-- A null selector, one that X86_LOADSEG loads and one that it answers with an exception; from memory and the stack. -/
theorem test_witness_SegmentLoads :
    let d : X86Descriptor := { base := 0x1000, limit := 0xFFFF, writable := true, big := false }
    let x : X86State := { X86State.reset with
      params := { X86State.reset.params with
        loadSegs := [⟨.ds, 4, .loaded d⟩, ⟨.ss, 0xFFFF, .raises (.np 0xFFFC)⟩] } }
    32 = x.opSize ∧ ReachesMem x 16 (.disp32 0x2000) .read ∧ x.CanPop (32 / 8) ∧
    (x.pe = true ∧ x.vm = false ∧ (3#16).toNat < 4) ∧ ¬ (x.pe = true ∧ x.vm = false ∧ (4#16).toNat < 4) ∧
    (x.params.loadSegs.find? fun e => decide (e.sreg = .ds ∧ e.sel = 4)).map (fun e => e.result) = some (.loaded d) ∧
    (x.params.loadSegs.find? fun e => decide (e.sreg = .ss ∧ e.sel = 0xFFFF)).map (fun e => e.result)
      = some (.raises (.np 0xFFFC)) ∧
    x.operand 16 (.mem (.disp32 0x2000)) = 0 ∧ (x.writeReg 0 0x12340004#32).operand 16 (.reg 0) = 4 := by decide

/-- A count that ends at 0 and one that wraps; a target at the limit and past it. -/
theorem test_witness_LoopForms :
    (let x := X86State.reset
     x.addrSize = 32 ∧ (x.writeReg 1 1#32).readReg 32 1 - 1 = 0 ∧ x.readReg 32 1 - 1 ≠ 0) ∧
    (let x := csLimit 0x10 .reset
     (x.eip + 2 + (0xE : BitVec 8).signExtend 32).toNat ≤ x.segs.cs.desc.limit.toNat ∧
     x.segs.cs.desc.limit.toNat < (x.eip + 2 + (0xF : BitVec 8).signExtend 32).toNat ∧
     x.lengthOf (.x86Loop 0xF) = 2 ∧ x.op32 = true) := by decide

/-- Counts 0, 1, 15, 16 and 31 of a 16-bit SHRD, and a value that the bits of clause three describe. -/
theorem test_witness_ShrdForms :
    let x := ((withOp .reset).writeReg 0 0x8001#32).writeReg 1 31#32
    16 = x.opSize ∧ (32#8).toNat % 32 = 0 ∧ 16 ≤ (48#8).toNat % 32 ∧
    16 ≤ (x.readReg 8 1).toNat % 32 ∧ (33#8).toNat % 32 = 1 ∧ (15#8).toNat % 32 = 15 ∧
    (let a : BitVec 16 := x.operand 16 (.reg 0)
     let b : BitVec 16 := x.readReg 16 1
     (∀ k, k < 16 → (0x4000#16 ||| 0x8000#16).getLsbD k = if k + 1 < 16 then a.getLsbD (k + 1) else b.getLsbD (k + 1 - 16)) ∧
     ∀ k, k < 16 → (0x003F#16).getLsbD k = if k + 15 < 16 then a.getLsbD (k + 15) else b.getLsbD (k + 15 - 16)) := by decide

/-- A pop at the top of the address space, and one into memory through ESP; and one where a 16-bit stack pointer wraps,
to the operand's own offset, to one location, and to an unknown one. -/
theorem test_witness_PopForms :
    (let x := withEsp 0xFFFFFFFC .reset
     32 = x.opSize ∧ x.CanPop (32 / 8) ∧ x.popWraps (.sib 0 4 4 .none) (32 / 8) = false ∧
     ReachesMem (x.setSp (x.popTo (32 / 8))) 32 (.sib 0 4 4 .none) .write) ∧
    (∀ g ∈ [X86PopWrap.computed, .lies .es 0x1234],
      let x : X86State := { withEsp 0xFFFE (small .reset) with params := { X86State.reset.params with popWrap := g } }
      let up : X86State := x.setSp (x.popTo (16 / 8))
      let place : X86Sreg × Word := (up.wrapLoc (.sib 0 4 4 .none)).1
      16 = x.opSize ∧ x.CanPop (16 / 8) ∧ x.popWraps (.sib 0 4 4 .none) (16 / 8) = true ∧
      place = (if g = .computed then (.ss, 0) else (.es, 0x1234)) ∧ up.Allows place.1 place.2 2 .write) ∧
    (let x : X86State := { withEsp 0xFFFE (small (dsReadOnly .reset)) with
       params := { X86State.reset.params with popWrap := .lies .ds 0 } }
     let up : X86State := x.setSp (x.popTo (16 / 8))
     x.popWraps (.sib 0 4 4 .none) (16 / 8) = true ∧
     up.xseg (up.wrapLoc (.sib 0 4 4 .none)).1.1 (up.wrapLoc (.sib 0 4 4 .none)).1.2 2 .write = .error (.gp 0)) ∧
    (let x : X86State := realMode (withEsp 0xFFFE (small .reset))
     let up : X86State := x.setSp (x.popTo (16 / 8))
     x.params.popWrap = .anywhere ∧ x.CanPop (16 / 8) ∧ x.popWraps (.sib 0 4 4 .none) (16 / 8) = true ∧
     up.Allows (up.wrapLoc (.sib 0 4 4 .none)).1.1 (up.wrapLoc (.sib 0 4 4 .none)).1.2 2 .write) := by decide

/-- A return to the code-segment limit and past it. -/
theorem test_witness_RetForms :
    let x := { csLimit 0xFF .reset with mem := [(0, 0xFF), (5, 1)] }
    32 = x.opSize ∧ x.CanPop (32 / 8) ∧ ¬ x.Outside .ss x.topOfStack (32 / 8) ∧
    ((Memory.read .little top32 32 x.mem (x.stackAt x.topOfStack 4 .stackRead)).setWidth 32).toNat ≤ x.segs.cs.desc.limit.toNat ∧
    (let y := withEsp 4 x
     y.CanPop (32 / 8) ∧ ¬ y.Outside .ss y.topOfStack (32 / 8) ∧ y.segs.cs.desc.limit.toNat <
       ((Memory.read .little top32 32 y.mem (y.stackAt y.topOfStack 4 .stackRead)).setWidth 32).toNat) := by decide

/-- No prefix in force; an offset that can be read in every segment. -/
theorem test_witness_PrefixForms :
    let x := X86State.reset
    (Instr.x86Ret).part = .p1 ∧ x.pfx = .none ∧ x.pfx.op = false ∧ x.pfx.addr = false ∧ x.pfx.seg = none ∧
    16 = (if x.segs.cs.desc.big then 16 else 32) ∧ x.Allows .ds 0xFFFF 1 .read ∧
    ∀ g ∈ [X86Sreg.cs, .ss, .ds, .es, .fs, .gs], x.Allows g (x.ea (.disp32 0xFFFFFFFF)) 1 .read := by decide

/-- X86RegisterViews, PpcMaskRotate, PpcRotates, ArmShiftedOperands: both ends of each range. -/
theorem test_witness_ranges :
    ((3 : BitVec 3).toNat < 4 ∧ 4 ≤ (4 : BitVec 3).toNat) ∧ (31 < 32 ∧ 0 < (1 : BitVec 5).toNat) ∧
    ((24 : BitVec 5) ≤ 31 ∧ ¬ (30 : BitVec 5) ≤ 1) := by decide

/-- A condition that holds and one that fails; the code 1111. -/
theorem test_witness_ArmConditionCodes :
    ArmCond.ofCode 0 = some .eq ∧ armCondOf (.armBx .eq 0) = some .eq ∧ ¬ ArmState.Holds .reset 0 ∧
    ArmState.Holds .reset 1 ∧ (0xFFFFFFFF#32).extractLsb' 28 4 = 15#4 := by
  exact ⟨rfl, rfl, (by decide : ¬ ArmState.reset.z = true), (by decide : ArmState.reset.z = false), rfl⟩

/-- And for ArmDataProcessing. FIQ mode and System mode, a result that is word aligned and one that is not. -/
theorem test_witness_ArmWritePc :
    ArmState.passes .reset .al = true ∧ (2 : BitVec 4) ≠ 15 ∧
    (let a := (p2 [(1, 4#32), (2, 2#32)] [] 0 0 fun a => { a with cpsr := 0x11 }).arm
     a.mode ≠ 0x10#5 ∧ a.mode ≠ 0x1F#5 ∧ (a.opLsl 0 1).1.toNat % 4 = 0 ∧ (a.opLsl 0 2).1.toNat % 4 ≠ 0) ∧
    (let a := (p2 [] [] 0 0 fun a => { a with cpsr := 0x1F }).arm
     a.mode = 0x1F#5) ∧ ArmState.reset.mode = 0x10#5 := by decide

/-- Aligned and not, aborted and not, R15 loaded with both alignments, both refused registers. -/
theorem test_witness_ArmLdr :
    let a := (p2 [(1, 0x1001#32)] [(0x1000, [0x11, 0x22, 0x33, 0x44])] 0 0).arm
    let c := { a with params := { a.params with alignCheck := true, aborts := [⟨0x1004, 4⟩] } }
    a.passes .al = true ∧ ¬ (ArmIndex.pre ≠ .offset ∧ ((2 : BitVec 4) = 1 ∨ (1 : BitVec 4) = 15)) ∧
    (a.params.alignCheck = true → (0x1001 : Nat) % 4 = 0) ∧ ¬ InRegion a.params.aborts 0x1001 ∧
    (Memory.read .little top32 32 a.mem 0x1000).toNat % 4 ≠ 0 ∧ (Memory.read .little top32 32 a.mem 0x1004).toNat % 4 = 0 ∧
    ¬ (c.params.alignCheck = true → (0x1001 : Nat) % 4 = 0) ∧ InRegion c.params.aborts 0x1004 ∧
    ¬ InRegion c.params.aborts 0x1000 := by decide

/-- Targets at both ends of the address space and one word past each; the three kinds of BX. -/
theorem test_witness_ArmBranches :
    (let t (pc : Nat) (off : BitVec 24) : Int := pc + 8 + 4 * off.toInt
     0 ≤ t 0 (-2) ∧ t 0 (-3) < 0 ∧ t 0xFFFFFFF0 1 < 2 ^ 32 ∧ 2 ^ 32 ≤ t 0xFFFFFFF0 2) ∧
    ArmState.reset.params.v4T = true ∧ ArmState.passes .reset .al = true ∧
    ({ ArmState.reset with params := { ArmState.reset.params with v4T := false } } : ArmState).params.v4T = false ∧
    ((2#32).getLsbD 0 = false ∧ (2#32).getLsbD 1 = true) ∧ ((3#32).getLsbD 0 = true) ∧ ((4#32).getLsbD 1 = false) := by
  decide

/-- The three answers of PPC_MTSPR_OTHER in user mode, and supervisor mode. -/
theorem test_witness_PpcMoveToSpr :
    let q : PpcParams :=
      { user := true, mtsprAt := [(0, .supervisorInstruction), (1023, .boundedlyUndefined)],
        mtsprElse := .illegalInstruction, dsi := [] }
    q.user = true ∧ PpcParams.mtsprOther q 2 = .illegalInstruction ∧ PpcParams.mtsprOther q 0 = .supervisorInstruction ∧
    PpcParams.mtsprOther q 1023 = .boundedlyUndefined ∧ ({ q with user := false } : PpcParams).user = false := by decide

/-- Valid forms in and out of PPC_DSI, at its first and last address. -/
theorem test_witness_PpcLoadUpdate :
    (4 : BitVec 5) ≠ 0 ∧ (4 : BitVec 5) ≠ 3 ∧ InRegion [⟨0x1000, 4⟩] 0x1000 ∧ InRegion [⟨0x1000, 4⟩] 0x1003 ∧
    ¬ InRegion [⟨0x1000, 4⟩] 0x1004 ∧ ¬ InRegion [⟨0x1000, 4⟩] 0xFFF := by decide

/-- SparcBranches, SparcJumps, SparcLoad. In and out of a delay slot, annulled, aligned and not, in and out of SPARC_DAE. -/
theorem test_witness_sparc :
    (let p := (p4 [] [] 0 0).sparc
     p.inDelaySlot = false ∧ (p.reg 31 + 8).toNat % 4 = 0 ∧ (p.reg 1 + (0x1FFF : BitVec 13).signExtend 32).toNat % 4 ≠ 0 ∧
     ¬ InRegion p.params.dae (p.reg 1).toNat) ∧
    (let s := p4 [] [] 0 0 fun p => { p with inDelaySlot := true, annulNext := true, params := { p.params with dae := [⟨0, 4⟩] } }
     s.part = .p4 ∧ s.sparc.inDelaySlot = true ∧ s.sparc.annulNext = true ∧ InRegion s.sparc.params.dae 0) := by decide

/-- Field ranges at their ends and past them, in a release that has EXT and INS; the bits of a result. -/
theorem test_witness_MipsArithmetic :
    (p5 [] [] 0).mips.params.release ≠ .r1 ∧ (release .r1 (p5 [] [] 0).mips).params.release = .r1 ∧
    (31#5).toNat + (0#5).toNat ≤ 31 ∧ 31 < (31#5).toNat + (1#5).toNat ∧ (31#5).toNat ≤ (31#5).toNat ∧
    (0#5).toNat < (1#5).toNat ∧
    (∀ k, k < 32 → (1#32).getLsbD k = (decide (k ≤ (0#5).toNat) && (0x80000000#32).getLsbD (k + 31))) ∧
    ∀ k, k < 32 → (0x80000000#32).getLsbD k = if 31 ≤ k ∧ k ≤ 31 then (1#32).getLsbD (k - 31) else (0#32).getLsbD k := by
  decide

/-- LW aligned and not, translated, faulting and neither; Release 6 with and without unaligned support. -/
theorem test_witness_MipsLoad :
    (let p := (p5 [] [] 0).mips
     (0x2003 : Nat) % 4 ≠ 0 ∧ p.params.release ≠ .r6 ∧ p.params.xlate = [] ∧ mipsTranslate p.params.xlate 0x2000 = .ok 0x2000) ∧
    (let p := (p5 [] [] 0 fun p => { release .r6 p with params := { p.params with
        release := .r6, misalign := .supported, xlate := [⟨⟨0x2000, 4⟩, .mapsTo 0x8000⟩, ⟨⟨0x3000, 4⟩, .faults .tlbRefill⟩] } }).mips
     ¬ (p.params.release ≠ .r6 ∨ p.params.misalign = .addressError) ∧
     mipsTranslate p.params.xlate 0x2003 = .ok 0x8003 ∧
     mipsTranslate p.params.xlate 0x3000 = .error (.raises (.mipsXlate .tlbRefill 0x3000))) := by decide

/-- Outside and inside a delay slot, in both encodings' releases. -/
theorem test_witness_MipsBranches :
    (p5 [] [] 0).mips.delayed = none ∧ (p5 [] [] 0).mips.params.release ≠ .r6 ∧
    (let p := (p5 [] [] 0 fun p => { release .r6 p with delayed := some ⟨0x2000, none⟩ }).mips
     p.delayed ≠ none ∧ p.params.release = .r6) ∧
    (let p := (p5 [] [] 0 fun p => { p with delayed := some ⟨0x2000, none⟩ }).mips
     p.delayed ≠ none ∧ p.params.release ≠ .r6) := by decide

/-- P6 where the unsettled cases complete. -/
def settled (p : RvState) : RvState := { p with params := { p.params with unsettled := .complete } }

/-- RvShifts, RvWords. Both widths, amounts 31 and 32; a zero and a nonzero divisor, refused and completed. -/
theorem test_witness_RvShiftsWords :
    (rv32 .reset).params.rv64 = false ∧ RvState.reset.params.rv64 = true ∧ RvState.reset.params.extM = true ∧
    (31#6).toNat < 32 ∧ 32 ≤ (32#6).toNat ∧ (RvState.reset.reg 64 1).extractLsb' 0 32 = 0#32 ∧
    ((RvState.reset.setReg 1 1#64).reg 64 1).extractLsb' 0 32 ≠ 0#32 ∧
    RvState.reset.params.unsettled = .refuse ∧ (settled .reset).params.unsettled = .complete := by decide

/-- P6 with a reservation on the eight bytes at 8. -/
def reserved (p : RvState) : RvState := { p with reservation := some ⟨8, 8⟩ }

/-- Loads and stores over the end of the address space, allowed and not, with faults by byte and by size; a reservation
apart from the store, and one that it overlaps. -/
theorem test_witness_RvLoadsStores :
    (let p : RvState := { RvState.reset with params := { RvState.reset.params with
       accessFaults := [⟨⟨0x1000, 4⟩, none, .load⟩, ⟨⟨0x1000, 4⟩, some 4, .store⟩] } }
     Memory.wf p.top p.mem ∧ RvState.Allows p .load (2 ^ 64 - 1) 8 ∧ ¬ RvState.Allows p .load 0xFF9 8 ∧
     RvState.Allows p .load 0xFF8 8 ∧ RvState.Allows p .store (2 ^ 64 - 1) 4 ∧ ¬ RvState.Allows p .store 0x1003 4 ∧
     RvState.Allows p .store 0xFFF 4 ∧ RvState.Allows p .store 0x1003 1) ∧
    ((reserved .reset).Disjoint 4 4 ∧ (reserved .reset).Disjoint 16 1 ∧ (reserved .reset).Settled 4 4) ∧
    (¬ (reserved .reset).Disjoint 15 1 ∧ ¬ (reserved .reset).Settled 5 4) ∧
    (settled (reserved .reset)).Settled 5 4 := by
  have apart := RvState.overlapsReservation_eq_false (reserved .reset)
  refine ⟨by decide, ⟨?_, ?_, fun _ => ?_⟩, ⟨fun h => ?_, fun h => ?_⟩, fun h => by cases h⟩
  · exact (apart 4 4).1 (by decide)
  · exact (apart 16 1).1 (by decide)
  · exact (apart 4 4).1 (by decide)
  · exact absurd ((apart 15 1).2 h) (by decide)
  · exact absurd ((apart 5 4).2 (h (by decide))) (by decide)

/-- Targets with and without C, at 2 and 4 bytes. -/
theorem test_witness_RvControl :
    RvState.reset.targetOk 2 = true ∧ RvState.reset.targetOk 3 = false ∧ (noC .reset).targetOk 4 = true ∧
    (noC .reset).targetOk 2 = false := by decide

/-- The reservation that an sc.d meets, both word reservations inside its doubleword, one that it does not meet, none;
aligned, allowed, and neither; an amoadd.d apart from the reservation and over it. -/
theorem test_witness_RvAtomics :
    (let p : RvState := { RvState.reset with params := { RvState.reset.params with
       accessFaults := [⟨⟨0x1000, 8⟩, none, .load⟩, ⟨⟨0x1000, 16⟩, some 8, .store⟩] } }
     p.params.extA = true ∧ p.params.rv64 = true ∧ Memory.wf p.top p.mem ∧ 0x2004 % 8 ≠ 0 ∧ 0x2008 % 8 = 0 ∧
     RvState.Allows p .store 0x2008 8 ∧ RvState.Allows p .load 0x2008 8 ∧ ¬ RvState.Allows p .load 0x1000 4 ∧
     RvState.Allows p .load 0x1008 8 ∧ ¬ RvState.Allows p .store 0x1008 8 ∧ p.params.scMayFail = false ∧
     p.params.unsettled = .refuse ∧ p.reservation ≠ some ⟨8, 8⟩ ∧
     ¬ (p.reservation = some ⟨8, 4⟩ ∨ p.reservation = some ⟨12, 4⟩)) ∧
    (reserved .reset).reservation = some ⟨8, 8⟩ ∧
    (∀ a ∈ [8, 12], let r : Option RvReservation := some ⟨a, 4⟩
      ({ RvState.reset with reservation := r } : RvState).reservation ≠ some ⟨8, 8⟩ ∧ (r = some ⟨8, 4⟩ ∨ r = some ⟨12, 4⟩)) ∧
    ((reserved .reset).Disjoint 16 8 ∧ (reserved .reset).Settled 16 8) ∧
    (¬ (reserved .reset).Settled 8 8 ∧ (settled (reserved .reset)).Settled 8 8) := by
  have apart := RvState.overlapsReservation_eq_false (reserved .reset)
  refine ⟨by decide, by decide, by decide, ⟨?_, fun _ => ?_⟩, fun h => ?_, fun h => by cases h⟩
  · exact (apart 16 8).1 (by decide)
  · exact (apart 16 8).1 (by decide)
  · exact absurd ((apart 8 8).2 (h (by decide))) (by decide)

/-- With and without each group of RV_EXT. -/
theorem test_witness_RvCompressed :
    RvState.reset.params.extC = true ∧ (noC .reset).params.extC = false ∧ (rv32 .reset).params.rv64 = false ∧
    (let q := { RvState.reset.params with extM := false, extA := false, privM := false, privS := false }
     q.extM = false ∧ q.extA = false ∧ q.privM = false ∧ q.privS = false) := by decide

/-- Every mode, every MPP that returns and those that do not, aligned and misaligned targets. -/
theorem test_witness_RvReturns :
    let p := RvState.reset
    p.params.privM = true ∧ p.params.privS = true ∧ p.params.userMode = true ∧ p.priv = .machine ∧ p.mpp = 0 ∧
    p.targetOk p.mepc = true ∧ p.targetOk p.sepc = true ∧
    ({ p with mepc := 1 } : RvState).targetOk 1 = false ∧ ({ p with priv := .user } : RvState).priv ≠ .machine ∧
    ({ p with priv := .supervisor } : RvState).priv ≠ .user ∧ ({ p with mpp := 2 } : RvState).mpp = 2 ∧
    ({ p with params := { p.params with privS := false, userMode := false } } : RvState).params.userMode = false := by decide

end Sys2Proof.Tests
end

section
/-! PROOFS, the scope of a step (spec/00_scope.md R1, R7): an instruction decodes in the part that fetched it, its
meaning writes that part only and keeps the part's parameters, and P1's system bits with them. -/

namespace Sys2Proof

/-! ### What every value that a computation answers has in common -/

/-- Where `b` answers a value, `f` of that value is `k`. -/
def Leaves (f : σ → κ) (k : κ) (b : Except ε σ) : Prop := ∀ q, b = .ok q → f q = k

@[simp] theorem leaves_ok {f : σ → κ} {k : κ} {q : σ} : Leaves f k (.ok q : Except ε σ) ↔ f q = k :=
  ⟨fun h => h q rfl, fun h _ e => by cases e; exact h⟩

@[simp] theorem leaves_error {f : σ → κ} {k : κ} {e : ε} : Leaves f k (.error e : Except ε σ) :=
  fun _ h => nomatch h

theorem leaves_ite {f : σ → κ} {k : κ} {c : Prop} [Decidable c] {a b : Except ε σ} (ha : Leaves f k a)
    (hb : Leaves f k b) : Leaves f k (if c then a else b) := by
  split
  · exact ha
  · exact hb

theorem leaves_map {f : σ → κ} {k : κ} {g : τ → σ} {b : Except ε τ} (h : ∀ v, f (g v) = k) :
    Leaves f k (b.map g) := by
  cases b with
  | error e => exact leaves_error
  | ok v => exact leaves_ok.2 (h v)

/-! ### An encoding decodes in its part -/

@[simp] theorem leaves_take8 {f : α → κ} {c : κ} {l : List Byte} {k : BitVec 8 → List Byte → Decoded α}
    (h : ∀ v t, Leaves f c (k v t)) : Leaves f c (take8 l k) := fun x hx => by
  obtain ⟨v, t, -, hk⟩ := take8_ok hx
  exact h v t x hk

@[simp] theorem leaves_take16 {f : α → κ} {c : κ} {l : List Byte} {k : BitVec 16 → List Byte → Decoded α}
    (h : ∀ v t, Leaves f c (k v t)) : Leaves f c (take16 l k) := fun x hx => by
  obtain ⟨v, t, -, hk⟩ := take16_ok hx
  exact h v t x hk

@[simp] theorem leaves_takeBySize {f : α → κ} {c : κ} {s : Bool} {l : List Byte}
    {k : BitVec 32 → List Byte → Decoded α} (h : ∀ v t, Leaves f c (k v t)) : Leaves f c (takeBySize s l k) :=
  fun x hx => by
    obtain ⟨v, t, -, -, hk⟩ := takeBySize_ok hx
    exact h v t x hk

@[simp] theorem leaves_takeRM {f : α → κ} {c : κ} {a : Bool} {l : List Byte}
    {k : BitVec 3 → X86RM → List Byte → Decoded α} (h : ∀ r m t, Leaves f c (k r m t)) :
    Leaves f c (takeRM a l k) :=
  fun x hx => by
    obtain ⟨r, m, t, -, -, hk⟩ := takeRM_ok hx
    exact h r m t x hk

@[simp] theorem leaves_takeDigit {f : α → κ} {c : κ} {a : Bool} {listed : BitVec 3 → Bool} {l : List Byte}
    {k : BitVec 3 → X86RM → List Byte → Decoded α} (h : ∀ r m t, Leaves f c (k r m t)) :
    Leaves f c (takeDigit a listed l k) := fun x hx => leaves_takeRM h x (takeDigit_ok hx).1

section
variable (a : X86Alu) (m : X86RM) (r : BitVec 3) (v8 : BitVec 8) (v32 : BitVec 32)

@[simp] theorem X86Alu.part_alImm8 : (a.alImm8 v8).part = .p1 := by cases a <;> rfl
@[simp] theorem X86Alu.part_axImm : (a.axImm v32).part = .p1 := by cases a <;> rfl
@[simp] theorem X86Alu.part_rm8Imm8 : (a.rm8Imm8 m v8).part = .p1 := by cases a <;> rfl
@[simp] theorem X86Alu.part_rmImm : (a.rmImm m v32).part = .p1 := by cases a <;> rfl
@[simp] theorem X86Alu.part_rmImm8 : (a.rmImm8 m v8).part = .p1 := by cases a <;> rfl
@[simp] theorem X86Alu.part_rm8R8 : (a.rm8R8 m r).part = .p1 := by cases a <;> rfl
@[simp] theorem X86Alu.part_rmR : (a.rmR m r).part = .p1 := by cases a <;> rfl
@[simp] theorem X86Alu.part_r8Rm8 : (a.r8Rm8 r m).part = .p1 := by cases a <;> rfl
@[simp] theorem X86Alu.part_rRm : (a.rRm r m).part = .p1 := by cases a <;> rfl

end

theorem part_decodeX86AluDirect (a : X86Alu) (k : BitVec 3) (o ad : Bool) (l : List Byte) :
    Leaves Instr.part .p1 (decodeX86AluDirect a k o ad l) := by
  unfold decodeX86AluDirect
  repeat' with_reducible apply leaves_ite
  all_goals simp

theorem part_decodeX86AluGroup (b : Byte) (o a : Bool) (l : List Byte) :
    Leaves Instr.part .p1 (decodeX86AluGroup b o a l) := by
  unfold decodeX86AluGroup
  refine leaves_takeDigit fun d rm t => ?_
  cases X86Alu.ofDigit d with
  | none => exact leaves_error
  | some f => exact leaves_ite (by simp) (leaves_ite (by simp) (by simp))

theorem part_decodeX86TwoByte (b : Byte) (a : Bool) (l : List Byte) :
    Leaves Instr.part .p1 (decodeX86TwoByte b a l) := by
  unfold decodeX86TwoByte
  repeat' with_reducible apply leaves_ite
  all_goals simp [Instr.part]

theorem part_decodeX86ModRM (b : Byte) (o a : Bool) (l : List Byte) :
    Leaves Instr.part .p1 (decodeX86ModRM b o a l) := by
  unfold decodeX86ModRM
  repeat' with_reducible apply leaves_ite
  -- 8F /0 is listed with a memory operand only
  on_goal 9 => exact leaves_takeDigit fun _ rm _ => by cases rm <;> simp [Instr.part]
  all_goals simp [Instr.part]

theorem part_decodeX86Plain (b : Byte) (o a : Bool) (l : List Byte) :
    Leaves Instr.part .p1 (decodeX86Plain b o a l) := by
  unfold decodeX86Plain
  repeat' with_reducible apply leaves_ite
  all_goals simp [Instr.part, part_decodeX86ModRM]

theorem part_decodeX86Opcode (o a : Bool) (b : Byte) (l : List Byte) :
    Leaves Instr.part .p1 (decodeX86Opcode o a b l) := by
  unfold decodeX86Opcode
  cases X86Alu.ofDigit (fld b 3 3)
  all_goals
    repeat' with_reducible apply leaves_ite
    all_goals
      simp [Instr.part, part_decodeX86TwoByte, part_decodeX86AluGroup, part_decodeX86AluDirect, part_decodeX86Plain]

theorem part_overridden (i : Instr) (g : X86Sreg) : (overridden i g).part = .p1 := by cases g <;> rfl

/-- A byte before an instruction belongs to P1 whatever follows it, so no induction on the bytes is needed. -/
theorem part_decodeX86 (csD : Bool) (p : X86Pfx) (l : List Byte) : Leaves Instr.part .p1 (decodeX86 csD p l) := by
  cases l with
  | nil => exact leaves_error
  | cons b l =>
    rw [decodeX86]
    refine leaves_ite (leaves_ite leaves_error (leaves_map fun _ => rfl))
      (leaves_ite (leaves_ite leaves_error (leaves_map fun _ => rfl)) ?_)
    cases overrideOf b with
    | none => exact part_decodeX86Opcode _ _ _ _
    | some g => exact leaves_ite leaves_error (leaves_map fun i => part_overridden i g)

@[simp] theorem ArmAlu.part_imm (a : ArmAlu) (c : ArmCond) (s : Bool) (rn rd rot : BitVec 4) (v : BitVec 8) :
    (a.imm c s rn rd rot v).part = .p2 := by cases a <;> rfl

@[simp] theorem ArmAlu.part_lsl (a : ArmAlu) (c : ArmCond) (s : Bool) (rn rd : BitVec 4) (sh : BitVec 5)
    (rm : BitVec 4) : (a.lsl c s rn rd sh rm).part = .p2 := by cases a <;> rfl

@[simp] theorem ArmAlu.part_lsr (a : ArmAlu) (c : ArmCond) (s : Bool) (rn rd : BitVec 4) (sh : BitVec 5)
    (rm : BitVec 4) : (a.lsr c s rn rd sh rm).part = .p2 := by cases a <;> rfl

theorem part_decodeArmData (c : ArmCond) (w : Word) : Leaves Instr.part .p2 (decodeArmData c w) := by
  unfold decodeArmData
  refine leaves_ite ?mov ?_
  case mov =>
    repeat' with_reducible apply leaves_ite
    all_goals simp [Instr.part]
  cases ArmAlu.ofOpcode (fld w 21 4) with
  | none => exact leaves_error
  | some a => exact leaves_ite (by simp) (leaves_ite (by simp) (leaves_ite (by simp) leaves_error))

theorem part_decodeArmLoad (c : ArmCond) (w : Word) : Leaves Instr.part .p2 (decodeArmLoad c w) := by
  unfold decodeArmLoad
  refine leaves_ite leaves_error ?_
  cases ArmIndex.ofBits (bitAt w 24) (bitAt w 21) with
  | none => exact leaves_error
  | some m =>
    exact leaves_ite (leaves_ok.2 rfl) (leaves_ite leaves_error (leaves_ite leaves_error (leaves_ok.2 rfl)))

theorem part_decodeArm (w : Word) : Leaves Instr.part .p2 (decodeArm w) := by
  have branch (c : ArmCond) : (if bitAt w 24 then Instr.armBl c (fld w 0 24) else .armB c (fld w 0 24)).part = .p2 := by
    split <;> rfl
  unfold decodeArm
  cases ArmCond.ofCode (fld w 28 4) with
  | none => exact leaves_error
  | some c =>
    exact leaves_ite (leaves_ok.2 rfl) (leaves_ite (part_decodeArmData c w) (leaves_ite (part_decodeArmLoad c w)
      (leaves_ite (leaves_ok.2 (branch c)) leaves_error)))

theorem part_decodePpc (w : Word) : Leaves Instr.part .p3 (decodePpc w) := by
  unfold decodePpc decodePpc31
  repeat' with_reducible apply leaves_ite
  all_goals simp [Instr.part]

theorem part_decodeSparc (w : Word) : Leaves Instr.part .p4 (decodeSparc w) := by
  unfold decodeSparc
  repeat' with_reducible apply leaves_ite
  all_goals simp [Instr.part]

theorem part_decodeMips (w : Word) : Leaves Instr.part .p5 (decodeMips w) := by
  unfold decodeMips decodeMipsSpecial
  repeat' with_reducible apply leaves_ite
  all_goals simp [Instr.part]

theorem part_decodeRv32 (w : Word) : Leaves Instr.part .p6 (decodeRv32 w) := by
  unfold decodeRv32 decodeRvLoad decodeRvImm decodeRvImmW decodeRvStore decodeRvAmo decodeRvReg decodeRvRegW
    decodeRvSystem
  repeat' with_reducible apply leaves_ite
  all_goals simp [Instr.part]

theorem part_decodeRvC (h : Half) : Leaves Instr.part .p6 (decodeRvC h) := by
  unfold decodeRvC
  repeat' with_reducible apply leaves_ite
  all_goals simp [Instr.part]

/-- What decodes in a part is an instruction of that part. -/
theorem part_decode (p : Part) (csD : Bool) (c : Code) : Leaves Instr.part p (decode p csD c) := by
  cases p <;> cases c
  case p1.bytes l => exact part_decodeX86 csD .none l
  case p2.word w => exact part_decodeArm w
  case p3.word w => exact part_decodePpc w
  case p4.word w => exact part_decodeSparc w
  case p5.word w => exact part_decodeMips w
  case p6.word w => exact part_decodeRv32 w
  case p6.half h => exact part_decodeRvC h
  all_goals exact leaves_error

end Sys2Proof
end

section
/-! PROOFS, continued: what a body leaves of the parameters of its part, and what a step leaves of the machine. -/

namespace Sys2Proof.Machine

/-! ### Outcomes -/

/-- A body that completes keeps what `f` reads of the state. -/
def Preserves (f : σ → κ) (body : σ → Except ε σ) : Prop := ∀ p, Leaves f (f p) (body p)

/-- Where `r` is a next state, `P` holds of it. -/
def Nexts (P : State → Prop) (r : Result) : Prop := ∀ t, r = .next t → P t

theorem nexts_next {P : State → Prop} {t : State} (h : P t) : Nexts P (.next t) := fun _ e => by cases e; exact h

theorem nexts_refused {P : State → Prop} {r : Refusal} : Nexts P (.refused r) := fun _ h => nomatch h

theorem nexts_takeException {P : State → Prop} {e : Exception} {s : State} : Nexts P (takeException e s) :=
  fun _ h => nomatch h

theorem nexts_ite {P : State → Prop} {c : Prop} [Decidable c] {a b : Result} (ha : Nexts P a) (hb : Nexts P b) :
    Nexts P (if c then a else b) := by
  split
  · exact ha
  · exact hb

/-- A body's next state is the one that it answers; an exception or a refusal gives none. -/
theorem nexts_finish {P : State → Prop} {f : σ → κ} {k : κ} {s : State} {put : σ → State} {b : Body σ}
    (hb : Leaves f k b) (hp : ∀ q, f q = k → P (put q)) : Nexts P (finish s put b) := by
  cases b with
  | ok q => exact nexts_next (hp q (leaves_ok.1 hb))
  | error e =>
    cases e with
    | raises e => exact nexts_takeException
    | raisesLeaving e t => exact nexts_takeException
    | refuses r => exact nexts_refused

/-! ### What no instruction of a part changes -/

/-- P1's system bits (spec/10_state.md R26) and its parameters (spec/00_scope.md R7). -/
structure X86System where
  pe : Bool
  vm : Bool
  iopl : BitVec 2
  cpl : BitVec 2
  alignCheck : Bool
  intEnable : Bool
  params : X86Params

/-- The system bits and parameters of a state of P1. -/
def X86State.system (x : X86State) : X86System where
  pe := x.pe
  vm := x.vm
  iopl := x.iopl
  cpl := x.cpl
  alignCheck := x.alignCheck
  intEnable := x.intEnable
  params := x.params

/-- `t` is `s` but for one part (spec/00_scope.md R1), whose parameters are those in `s`. -/
def ChangesOnly (s : State) : Part → State → Prop
  | .p1, t => ∃ x, t = { s with x86 := x } ∧ x.system = s.x86.system
  | .p2, t => ∃ a, t = { s with arm := a } ∧ a.params = s.arm.params
  | .p3, t => ∃ p, t = { s with ppc := p } ∧ p.params = s.ppc.params
  | .p4, t => ∃ p, t = { s with sparc := p } ∧ p.params = s.sparc.params
  | .p5, t => ∃ p, t = { s with mips := p } ∧ p.params = s.mips.params
  | .p6, t => ∃ p, t = { s with rv := p } ∧ p.params = s.rv.params

/-! ### P1: the operations -/

@[simp] theorem X86State.system_writeReg (x : X86State) (n : BitVec 3) (v : BitVec w) :
    (x.writeReg n v).system = x.system := rfl

@[simp] theorem X86State.system_store (x : X86State) (a : Word) (v : BitVec w) : (x.store a v).system = x.system := rfl

@[simp] theorem X86State.system_draw (x : X86State) (w : Nat) : (x.draw w).2.system = x.system := rfl

@[simp] theorem X86State.system_entered (x : X86State) (i : Instr) : (x.entered i).system = x.system := rfl

@[simp] theorem X86State.system_setSp (x : X86State) (v : Word) : (x.setSp v).system = x.system := by
  simp [X86State.system]

@[simp] theorem X86State.system_countDown (x : X86State) : x.countDown.system = x.system := by
  simp [X86State.system]

@[simp] theorem X86State.system_inhibit (x : X86State) (b : Bool) : (x.inhibit b).system = x.system := by
  simp [X86State.system]

@[simp] theorem X86State.system_wrapLoc (x : X86State) (m : X86Mem) : (x.wrapLoc m).2.system = x.system := by
  obtain ⟨d, h⟩ := x.wrapLoc_state m
  rw [h]
  rfl

@[simp] theorem X86State.system_segLoad (x : X86State) (g : X86Sreg) (sel : Half) :
    (x.segLoad g sel).2.system = x.system := by
  unfold X86State.segLoad
  split <;> rfl

section
variable {k : X86System} {x : X86State} (hx : x.system = k)
include hx

omit hx in
theorem X86State.system_atOpSize {body : Nat → Body X86State} (h : ∀ w, Leaves X86State.system k (body w)) :
    Leaves X86State.system k (x.atOpSize body) :=
  leaves_ite (h 32) (h 16)

theorem X86State.system_writeSeg (g : X86Sreg) (off : Word) (kind : X86Access) (v : BitVec w) :
    Leaves X86State.system k (x.writeSeg g off kind v) := by
  unfold X86State.writeSeg
  cases x.xseg g off (w / 8) kind <;> simp [hx]

theorem X86State.system_writeRM (rm : X86RM) (v : BitVec w) : Leaves X86State.system k (x.writeRM rm v) := by
  cases rm with
  | reg n => exact leaves_ok.2 hx
  | mem m => exact X86State.system_writeSeg hx _ _ _ _

theorem X86State.system_checkWriteRM (w : Nat) (rm : X86RM) : Leaves X86State.system k (x.checkWriteRM w rm) := by
  cases rm with
  | reg n => exact leaves_ok.2 hx
  | mem m =>
    unfold X86State.checkWriteRM
    dsimp only
    cases x.xseg (x.segOf m) (x.ea m) (w / 8) .write <;> simp [hx]

theorem X86State.system_push (v : BitVec w) : Leaves X86State.system k (x.push v) := by
  refine leaves_ite leaves_error ?_
  have stored := X86State.system_writeSeg hx .ss (x.spPlus (-(BitVec.ofNat 32 (w / 8)))) .stackWrite v
  cases h : x.writeSeg .ss (x.spPlus (-(BitVec.ofNat 32 (w / 8)))) .stackWrite v with
  | error e => exact leaves_error
  | ok y => exact leaves_ok.2 ((y.system_setSp _).trans (stored y h))

theorem X86State.system_pop (w : Nat) : Leaves (fun r => r.2.system) k (x.pop w) := by
  refine leaves_ite leaves_error ?_
  cases x.readSeg w .ss x.sp .stackRead <;> simp [hx]

theorem X86State.system_guardPush {b : Body X86State} (h : Leaves X86State.system k b) :
    Leaves X86State.system k (x.guardPush b) :=
  leaves_ite (leaves_ok.2 hx) h

theorem X86State.system_jumpNear (target : Word) : Leaves X86State.system k (x.jumpNear target) :=
  leaves_ite leaves_error (leaves_ok.2 hx)

theorem X86State.system_loadSeg (g : X86Sreg) (sel : Half) : Leaves X86State.system k (x.loadSeg g sel) := by
  unfold X86State.loadSeg
  refine leaves_ite (leaves_ite (leaves_ok.2 hx) leaves_error) ?_
  cases (x.segLoad g sel).1 with
  | raises e => exact leaves_error
  | loaded d => exact leaves_ok.2 ((x.system_segLoad g sel).trans hx)

end

/-! ### P1: the bodies -/

/-- An arithmetic operation changes the flags and the count of drawn values only. -/
def AluOp.KeepsSystem (op : AluOp) : Prop := ∀ w x (a b : BitVec w), (op w x a b).2.system = x.system

section
variable {op : AluOp} (hop : op.KeepsSystem) {w : Nat} (x : X86State)
include hop

theorem system_aluToRM (rm : X86RM) (src : BitVec w) : Leaves X86State.system x.system (aluToRM op w rm src x) := by
  unfold aluToRM
  cases x.readRM w rm with
  | error e => exact leaves_error
  | ok d => exact X86State.system_writeRM (hop w x d src) _ _

theorem system_aluToReg (r : BitVec 3) (rm : X86RM) : Leaves X86State.system x.system (aluToReg op w r rm x) := by
  unfold aluToReg
  cases x.readRM w rm with
  | error e => exact leaves_error
  | ok b => exact leaves_ok.2 (hop w x _ b)

theorem system_aluToAcc (v : BitVec w) : Leaves X86State.system x.system (aluToAcc op w v x) :=
  leaves_ok.2 (hop w x _ v)

end

section
variable {w : Nat} (x : X86State)

theorem system_movToReg (r : BitVec 3) (rm : X86RM) : Leaves X86State.system x.system (movToReg w r rm x) := by
  unfold movToReg
  cases x.readRM w rm <;> simp

theorem system_movFromMoffs (off : BitVec 32) : Leaves X86State.system x.system (movFromMoffs w off x) := by
  unfold movFromMoffs
  cases x.readSeg w x.moffsSeg (x.moffs off) .read <;> simp

theorem system_movSelector (rm : X86RM) (sel : Half) : Leaves X86State.system x.system (movSelector rm sel x) := by
  cases rm with
  | mem m => exact X86State.system_writeRM (x := x) rfl (.mem m) sel
  | reg n => exact leaves_ite (leaves_ok.2 rfl) (leaves_ok.2 rfl)

theorem system_shrdBody (rm : X86RM) (src : BitVec w) (count : Nat) :
    Leaves X86State.system x.system (shrdBody w rm src count x) := by
  unfold shrdBody
  cases x.readRM w rm with
  | error e => exact leaves_error
  | ok d =>
    exact leaves_ite (X86State.system_checkWriteRM rfl _ _)
      (leaves_ite (X86State.system_writeRM rfl _ _) (X86State.system_writeRM rfl _ _))

theorem system_xchgBody (rm : X86RM) (r : BitVec 3) : Leaves X86State.system x.system (xchgBody w rm r x) := by
  unfold xchgBody
  cases x.readRM w rm with
  | error e => exact leaves_error
  | ok t =>
    have written := X86State.system_writeRM (rfl : x.system = x.system) rm (x.readReg w r)
    cases h : x.writeRM rm (x.readReg w r) with
    | error e => exact leaves_error
    | ok y => exact leaves_ok.2 (written y h)

theorem system_pushSelector (g : X86Sreg) : Leaves X86State.system x.system (pushSelector g x) :=
  X86State.system_guardPush rfl (leaves_ite (X86State.system_push rfl _) (X86State.system_push rfl _))

theorem system_popToMem (m : X86Mem) : Leaves X86State.system x.system (popToMem w m x) := by
  unfold popToMem
  cases h : x.pop w with
  | error e => exact leaves_error
  | ok r =>
    have hy : r.2.system = x.system := X86State.system_pop rfl w r h
    exact leaves_ite (X86State.system_writeSeg ((r.2.system_wrapLoc m).trans hy) _ _ _ _)
      (X86State.system_writeSeg hy _ _ _ _)

theorem system_popSelector (g : X86Sreg) : Leaves X86State.system x.system (popSelector g x) := by
  refine X86State.system_atOpSize fun w => ?_
  cases h : x.pop w with
  | error e => exact leaves_error
  | ok r => exact X86State.system_loadSeg (X86State.system_pop rfl w r h) _ _

theorem system_loopBody (rel : BitVec 8) (cond : Bool) : Leaves X86State.system x.system (loopBody rel cond x) :=
  leaves_ite (X86State.system_jumpNear x.system_countDown _) (leaves_ok.2 x.system_countDown)

theorem system_retBody (extra : Word) : Leaves X86State.system x.system (retBody extra x) := by
  refine X86State.system_atOpSize fun w => leaves_ite leaves_error (leaves_ite leaves_error ?_)
  cases h : x.pop w with
  | error e => exact leaves_error
  | ok r =>
    have jumped := X86State.system_jumpNear (X86State.system_pop rfl w r h) (r.1.setWidth 32)
    dsimp only
    cases hz : r.2.jumpNear (r.1.setWidth 32) with
    | error e => exact leaves_error
    | ok z => exact leaves_ok.2 ((z.system_setSp _).trans (jumped z hz))

end

/-! ### P1: the instructions -/

theorem x86Do_changesOnly {i : Instr} {body : X86State → Body X86State} {s : State}
    (h : Preserves X86State.system body) : Nexts (ChangesOnly s .p1) (x86Do i body s) :=
  nexts_finish (h (s.x86.entered i)) fun q hq => ⟨{ q with pfx := .none }, rfl, hq⟩

theorem execX86PushRm_changesOnly (rm : X86RM) (s : State) : Nexts (ChangesOnly s .p1) (execX86PushRm rm s) := by
  refine x86Do_changesOnly fun x => X86State.system_guardPush rfl (X86State.system_atOpSize fun w => ?_)
  cases x.readRM w rm with
  | error e => exact leaves_error
  | ok v => exact X86State.system_push rfl v

theorem execX86PopReg_changesOnly (r : BitVec 3) (s : State) : Nexts (ChangesOnly s .p1) (execX86PopReg r s) := by
  refine x86Do_changesOnly fun x => X86State.system_atOpSize fun w => ?_
  cases h : x.pop w with
  | error e => exact leaves_error
  | ok y => exact leaves_ok.2 (X86State.system_pop (x := x) rfl w y h)

theorem execX86PopSs_changesOnly (s : State) : Nexts (ChangesOnly s .p1) (execX86PopSs s) := by
  refine x86Do_changesOnly fun x => ?_
  cases h : popSelector .ss x with
  | error e => exact leaves_error
  | ok y => exact leaves_ok.2 ((y.system_inhibit _).trans (system_popSelector x .ss y h))

theorem execX86MovRmSreg_changesOnly (rm : X86RM) (sr : BitVec 3) (s : State) :
    Nexts (ChangesOnly s .p1) (execX86MovRmSreg rm sr s) := by
  refine x86Do_changesOnly fun x => ?_
  cases sregOf sr with
  | none => exact leaves_error
  | some g => exact system_movSelector x rm _

theorem execX86MovSregRm_changesOnly (sr : BitVec 3) (rm : X86RM) (s : State) :
    Nexts (ChangesOnly s .p1) (execX86MovSregRm sr rm s) := by
  refine x86Do_changesOnly fun x => ?_
  cases sregOf sr with
  | none => exact leaves_error
  | some g =>
    refine leaves_ite leaves_error ?_
    cases x.readRM 16 rm with
    | error e => exact leaves_error
    | ok v => exact X86State.system_loadSeg rfl g v

/-- After a byte that modifies it, a P1 instruction has its meaning from `exec`, and there is no other instruction. -/
theorem x86Run_eq (i : Instr) (s : State) :
    x86Run i s = if i.part = .p1 then exec i s else .refused .prefixedForeign := by
  cases i <;> rfl

/-- The bytes in force on an instruction are not among the things it keeps, so running it with them is as without. -/
theorem nexts_x86Run {i : Instr} (ih : i.part = .p1 → ∀ s, Nexts (ChangesOnly s .p1) (exec i s)) (s : State)
    (p : X86Pfx) : Nexts (ChangesOnly s .p1) (x86Run i (s.withPfx p)) := by
  rw [x86Run_eq]
  split
  · exact ih ‹_› (s.withPfx p)
  · exact nexts_refused

/-- P1: an instruction, behind any bytes that modify it, keeps the system bits and the parameters. -/
theorem exec_changesOnly_p1 {i : Instr} (h : i.part = .p1) (s : State) : Nexts (ChangesOnly s .p1) (exec i s) := by
  induction i generalizing s <;> dsimp only [exec]
  case x86PushRm rm => exact execX86PushRm_changesOnly rm s
  case x86PushReg | x86PushImm8 | x86PushImm =>
    exact x86Do_changesOnly fun x =>
      X86State.system_guardPush rfl (X86State.system_atOpSize fun _ => X86State.system_push (x := x) rfl _)
  case x86PushCs | x86PushSs | x86PushDs | x86PushEs | x86PushFs | x86PushGs =>
    exact x86Do_changesOnly fun x => system_pushSelector x _
  case x86AddAlImm8 | x86AdcAlImm8 | x86XorAlImm8 =>
    exact x86Do_changesOnly fun x => system_aluToAcc (fun _ _ _ _ => rfl) x _
  case x86AddAxImm | x86AdcAxImm | x86XorAxImm =>
    exact x86Do_changesOnly fun x => X86State.system_atOpSize fun _ => system_aluToAcc (fun _ _ _ _ => rfl) x _
  case x86AddRm8Imm8 | x86AddRm8R8 | x86AdcRm8Imm8 | x86AdcRm8R8 | x86XorRm8Imm8 | x86XorRm8R8 =>
    exact x86Do_changesOnly fun x => system_aluToRM (fun _ _ _ _ => rfl) x _ _
  case x86AddRmImm | x86AddRmImm8 | x86AddRmR | x86AdcRmImm | x86AdcRmImm8 | x86AdcRmR | x86XorRmImm | x86XorRmImm8 |
      x86XorRmR =>
    exact x86Do_changesOnly fun x => X86State.system_atOpSize fun _ => system_aluToRM (fun _ _ _ _ => rfl) x _ _
  case x86AddR8Rm8 | x86AdcR8Rm8 | x86XorR8Rm8 =>
    exact x86Do_changesOnly fun x => system_aluToReg (fun _ _ _ _ => rfl) x _ _
  case x86AddRRm | x86AdcRRm | x86XorRRm =>
    exact x86Do_changesOnly fun x => X86State.system_atOpSize fun _ => system_aluToReg (fun _ _ _ _ => rfl) x _ _
  case x86MovRm8R8 | x86MovRm8Imm8 => exact x86Do_changesOnly fun x => X86State.system_writeRM (x := x) rfl _ _
  case x86MovRmR | x86MovRmImm =>
    exact x86Do_changesOnly fun x => X86State.system_atOpSize fun _ => X86State.system_writeRM (x := x) rfl _ _
  case x86MovR8Rm8 => exact x86Do_changesOnly fun x => system_movToReg x _ _
  case x86MovRRm => exact x86Do_changesOnly fun x => X86State.system_atOpSize fun _ => system_movToReg x _ _
  case x86MovRmSreg rm sr => exact execX86MovRmSreg_changesOnly rm sr s
  case x86MovSregRm sr rm => exact execX86MovSregRm_changesOnly sr rm s
  case x86MovAlMoffs => exact x86Do_changesOnly fun x => system_movFromMoffs x _
  case x86MovAxMoffs => exact x86Do_changesOnly fun x => X86State.system_atOpSize fun _ => system_movFromMoffs x _
  case x86MovMoffsAl => exact x86Do_changesOnly fun x => X86State.system_writeSeg (x := x) rfl _ _ _ _
  case x86MovMoffsAx =>
    exact x86Do_changesOnly fun x => X86State.system_atOpSize fun _ => X86State.system_writeSeg (x := x) rfl _ _ _ _
  case x86MovR8Imm8 => exact x86Do_changesOnly fun x => leaves_ok.2 rfl
  case x86MovRImm => exact x86Do_changesOnly fun x => X86State.system_atOpSize fun _ => leaves_ok.2 rfl
  case x86Loop | x86Loope | x86Loopne => exact x86Do_changesOnly fun x => system_loopBody x _ _
  case x86ShrdImm | x86ShrdCl =>
    exact x86Do_changesOnly fun x => X86State.system_atOpSize fun _ => system_shrdBody x _ _ _
  case x86XchgAxR | x86XchgRmR =>
    exact x86Do_changesOnly fun x => X86State.system_atOpSize fun _ => system_xchgBody x _ _
  case x86XchgRm8R8 => exact x86Do_changesOnly fun x => system_xchgBody x _ _
  case x86PopMem => exact x86Do_changesOnly fun x => X86State.system_atOpSize fun _ => system_popToMem x _
  case x86PopReg r => exact execX86PopReg_changesOnly r s
  case x86PopDs | x86PopEs | x86PopFs | x86PopGs => exact x86Do_changesOnly fun x => system_popSelector x _
  case x86PopSs => exact execX86PopSs_changesOnly s
  case x86Ret | x86RetImm => exact x86Do_changesOnly fun x => system_retBody x _
  case x86OpSize i ih | x86AddrSize i ih | x86SegCs i ih | x86SegSs i ih | x86SegDs i ih | x86SegEs i ih |
      x86SegFs i ih | x86SegGs i ih =>
    exact nexts_ite nexts_refused (nexts_x86Run ih s _)
  case x86RetFar | x86RetFarImm | x86Lock => exact nexts_refused
  all_goals cases h

end Sys2Proof.Machine
end

section
/-! PROOFS, continued: P2 to P6, and the step. -/

namespace Sys2Proof.Machine

/-! ### P2 -/

theorem armDo_changesOnly {c : ArmCond} {body : ArmState → Body ArmState} {s : State}
    (h : Preserves ArmState.params body) : Nexts (ChangesOnly s .p2) (armDo c body s) :=
  nexts_ite (nexts_finish (h s.arm) fun q hq => ⟨q, rfl, hq⟩) (nexts_next ⟨s.arm.advance, rfl, rfl⟩)

@[simp] theorem ArmState.forget_params (a : ArmState) (l : List (BitVec 4)) : (a.forget l).params = a.params := by
  induction l generalizing a with
  | nil => rfl
  | cons n l ih => exact ih _

theorem armReturn_params (a : ArmState) : (armReturn a).params = a.params := a.forget_params _

section
variable {k : ArmParams} {a : ArmState} (ha : a.params = k)
include ha

theorem ArmState.params_branchTo (v : Word) : Leaves ArmState.params k (a.branchTo v) :=
  leaves_ite (leaves_ok.2 ha) leaves_error

/-- A data-processing instruction: the flags that it may write are none of the parameters. -/
theorem params_armResult (s : Bool) (rd : BitVec 4) (r : Word) (c : Bool) (v : ArmState → Bool) :
    Leaves ArmState.params k (armResult s rd r (fun b => b.setResultFlags r c (v b)) a) := by
  refine leaves_ite (leaves_ite (leaves_ite ?_ leaves_error) (ArmState.params_branchTo ha r)) (leaves_ok.2 ?_)
  · exact ArmState.params_branchTo ((armReturn_params a).trans ha) r
  · cases s <;> exact ha

theorem params_armMov (s : Bool) (rd : BitVec 4) (o : Word × Bool) :
    Leaves ArmState.params k (armMov s rd o a) :=
  params_armResult ha s rd _ _ ArmState.v

theorem params_armOrr (s : Bool) (rn rd : BitVec 4) (o : Word × Bool) :
    Leaves ArmState.params k (armOrr s rn rd o a) :=
  params_armResult ha s rd _ _ ArmState.v

theorem params_armAdd (s : Bool) (rn rd : BitVec 4) (o : Word × Bool) :
    Leaves ArmState.params k (armAdd s rn rd o a) :=
  params_armResult ha s rd _ _ fun _ => _

theorem params_armAdc (s : Bool) (rn rd : BitVec 4) (o : Word × Bool) :
    Leaves ArmState.params k (armAdc s rn rd o a) :=
  params_armResult ha s rd _ _ fun _ => _

theorem params_armSub (s : Bool) (rn rd : BitVec 4) (o : Word × Bool) :
    Leaves ArmState.params k (armSub s rn rd o a) :=
  params_armResult ha s rd _ _ fun _ => _

theorem params_armLdr (mode : ArmIndex) (up : Bool) (rn rd : BitVec 4) (off : Word) :
    Leaves ArmState.params k (armLdr mode up rn rd off a) := by
  have indexed (v : Word) : (if ldrWritesBack mode then a.setReg rn v else a).params = k := by
    split <;> exact ha
  refine leaves_ite leaves_error (leaves_ite leaves_error (leaves_ite leaves_error (leaves_ite leaves_error ?_)))
  exact leaves_ite (ArmState.params_branchTo (indexed _) _) (leaves_ok.2 (indexed _))

theorem params_armBranch (link : Bool) (off : BitVec 24) : Leaves ArmState.params k (armBranch link off a) := by
  refine leaves_ite leaves_error (leaves_ok.2 ?_)
  cases link <;> exact ha

theorem params_armBx (rm : BitVec 4) : Leaves ArmState.params k (armBx rm a) :=
  leaves_ite leaves_error (leaves_ite leaves_error (leaves_ok.2 ha))

end

/-- P2: an instruction keeps the parameters. -/
theorem exec_changesOnly_p2 {i : Instr} (h : i.part = .p2) (s : State) : Nexts (ChangesOnly s .p2) (exec i s) := by
  cases i <;> dsimp only [exec]
  case armSubImm | armSubLsl | armSubLsr => exact armDo_changesOnly fun a => params_armSub (a := a) rfl _ _ _ _
  case armAddImm | armAddLsl | armAddLsr => exact armDo_changesOnly fun a => params_armAdd (a := a) rfl _ _ _ _
  case armAdcImm | armAdcLsl | armAdcLsr => exact armDo_changesOnly fun a => params_armAdc (a := a) rfl _ _ _ _
  case armOrrImm | armOrrLsl | armOrrLsr => exact armDo_changesOnly fun a => params_armOrr (a := a) rfl _ _ _ _
  case armMovImm | armMovLsl | armMovLsr => exact armDo_changesOnly fun a => params_armMov (a := a) rfl _ _ _
  case armLdrImm | armLdrReg => exact armDo_changesOnly fun a => params_armLdr (a := a) rfl _ _ _ _ _
  case armB | armBl => exact armDo_changesOnly fun a => params_armBranch (a := a) rfl _ _
  case armBx => exact armDo_changesOnly fun a => params_armBx (a := a) rfl _
  all_goals cases h

/-! ### P3 -/

theorem ppcDo_changesOnly {body : PpcState → Body PpcState} {s : State} (h : Preserves PpcState.params body) :
    Nexts (ChangesOnly s .p3) (ppcDo body s) :=
  nexts_finish (h s.ppc) fun q hq => ⟨q, rfl, hq⟩

theorem params_ppcSum (rD : BitVec 5) (a b : Word) (c oe rc : Bool) (p : PpcState) :
    Leaves PpcState.params p.params (ppcSum rD a b c oe rc p) := by
  simp [ppcSum]

theorem params_ppcRotated (rA : BitVec 5) (r : Word) (rc : Bool) (p : PpcState) :
    Leaves PpcState.params p.params (ppcRotated rA r rc p) := by
  simp [ppcRotated]

theorem params_ppcMtsprBody (n : BitVec 10) (rS : BitVec 5) :
    Preserves PpcState.params (ppcMtsprBody n rS) := fun p => by
  refine leaves_ite (leaves_ok.2 rfl) (leaves_ite (leaves_ok.2 rfl) (leaves_ite (leaves_ok.2 rfl)
    (leaves_ite ?_ leaves_error)))
  cases PpcParams.mtsprOther p.params n <;> exact leaves_error

/-- P3: an instruction keeps the parameters. -/
theorem exec_changesOnly_p3 {i : Instr} (h : i.part = .p3) (s : State) : Nexts (ChangesOnly s .p3) (exec i s) := by
  cases i <;> dsimp only [exec]
  case ppcAddi | ppcLi | ppcBc | ppcBclr | ppcBlr => exact ppcDo_changesOnly fun p => leaves_ok.2 rfl
  case ppcRlwimi | ppcRlwinm => exact ppcDo_changesOnly fun p => params_ppcRotated _ _ _ p
  case ppcAddc | ppcAddze => exact ppcDo_changesOnly fun p => params_ppcSum _ _ _ _ _ _ p
  case ppcMtspr | ppcMtxer | ppcMtlr | ppcMtctr => exact ppcDo_changesOnly (params_ppcMtsprBody _ _)
  case ppcLwzu =>
    exact ppcDo_changesOnly fun p => leaves_ite leaves_error (leaves_ite leaves_error (leaves_ok.2 rfl))
  all_goals cases h

/-! ### P4 -/

theorem sparcDo_changesOnly {body : SparcState → Body SparcState} {s : State} (h : Preserves SparcState.params body) :
    Nexts (ChangesOnly s .p4) (sparcDo body s) :=
  nexts_finish (h s.sparc) fun q hq => ⟨q.advance, rfl, hq⟩

theorem sparcTransferDo_changesOnly {body : SparcState → Body SparcState} {s : State}
    (h : Preserves SparcState.params body) : Nexts (ChangesOnly s .p4) (sparcTransferDo body s) :=
  nexts_ite nexts_refused (nexts_finish (h s.sparc) fun q hq => ⟨q, rfl, hq⟩)

theorem params_sparcJmplBody (rs1 : BitVec 5) (o : SparcOp2) (rd : BitVec 5) :
    Preserves SparcState.params (sparcJmplBody rs1 o rd) := fun p =>
  leaves_ite leaves_error (leaves_ok.2 (p.setReg_params rd p.pc))

/-- P4: an instruction keeps the parameters. -/
theorem exec_changesOnly_p4 {i : Instr} (h : i.part = .p4) (s : State) : Nexts (ChangesOnly s .p4) (exec i s) := by
  cases i <;> dsimp only [exec]
  case sparcNop => exact sparcDo_changesOnly fun p => leaves_ok.2 rfl
  case sparcSethi | sparcAdd | sparcOr | sparcAddx | sparcAddcc | sparcSubcc | sparcSll | sparcSrl | sparcCmp |
      sparcMov =>
    exact sparcDo_changesOnly fun p => leaves_ok.2 (p.setReg_params _ _)
  case sparcLd =>
    exact sparcDo_changesOnly fun p =>
      leaves_ite leaves_error (leaves_ite leaves_error (leaves_ok.2 (p.setReg_params _ _)))
  case sparcBicc => exact sparcTransferDo_changesOnly fun p => leaves_ok.2 rfl
  case sparcJmpl | sparcJmp | sparcCall | sparcRet | sparcRetl =>
    exact sparcTransferDo_changesOnly (params_sparcJmplBody _ _ _)
  all_goals cases h

/-! ### P5 -/

theorem mipsDo_changesOnly {body : MipsState → Body MipsState} {s : State} (h : Preserves MipsState.params body) :
    Nexts (ChangesOnly s .p5) (mipsDo body s) :=
  nexts_finish (h s.mips) fun q hq => ⟨q.advance, rfl, q.advance_params.trans hq⟩

/-- What a control transfer leaves pending is no parameter, whatever it is. -/
theorem mipsTransferDo_changesOnly {body : MipsState → Except (Stop MipsState) MipsPending} {s : State} :
    Nexts (ChangesOnly s .p5) (mipsTransferDo body s) := by
  refine nexts_ite (nexts_ite nexts_takeException nexts_refused)
    (nexts_finish (f := MipsState.params) (k := s.mips.params) ?_ fun q hq => ⟨q, rfl, hq⟩)
  cases body s.mips with
  | error e => exact leaves_error
  | ok d => exact leaves_ok.2 rfl

theorem execMipsLw_changesOnly (rt : BitVec 5) (off : BitVec 16) (base : BitVec 5) (s : State) :
    Nexts (ChangesOnly s .p5) (execMipsLw rt off base s) := by
  refine mipsDo_changesOnly fun p => ?_
  cases p.loadWord (off.signExtend 32 + p.reg base) with
  | error e => exact leaves_error
  | ok v => exact leaves_ok.2 (p.setReg_params rt v)

/-- P5: an instruction keeps the parameters. -/
theorem exec_changesOnly_p5 {i : Instr} (h : i.part = .p5) (s : State) : Nexts (ChangesOnly s .p5) (exec i s) := by
  cases i <;> dsimp only [exec]
  case mipsAddiu | mipsOri | mipsAddu | mipsSltu | mipsMove | mipsLiAddiu | mipsLiOri =>
    exact mipsDo_changesOnly fun p => leaves_ok.2 (p.setReg_params _ _)
  case mipsLw rt off base => exact execMipsLw_changesOnly rt off base s
  case mipsExt | mipsIns =>
    exact mipsDo_changesOnly fun p =>
      leaves_ite leaves_error (leaves_ite leaves_error (leaves_ok.2 (p.setReg_params _ _)))
  case mipsBne => exact mipsTransferDo_changesOnly
  case mipsJrPre => exact nexts_ite nexts_takeException mipsTransferDo_changesOnly
  case mipsJrR6 => exact nexts_ite mipsTransferDo_changesOnly nexts_refused
  all_goals cases h

/-! ### P6 -/

theorem rvDo_changesOnly {present : RvParams → Bool} {len : DWord} {body : RvState → Body RvState} {s : State}
    (h : Preserves RvState.params body) : Nexts (ChangesOnly s .p6) (rvDo present len body s) :=
  nexts_ite (nexts_finish (h s.rv) fun q hq => ⟨q.advance len, rfl, hq⟩) nexts_refused

theorem rvJumpDo_changesOnly {present : RvParams → Bool} {body : RvState → Body RvState} {s : State}
    (h : Preserves RvState.params body) : Nexts (ChangesOnly s .p6) (rvJumpDo present body s) :=
  nexts_ite (nexts_finish (h s.rv) fun q hq => ⟨q, rfl, hq⟩) nexts_refused

section
variable (p : RvState)

theorem RvState.params_jump (v : DWord) : Leaves RvState.params p.params (p.jump v) :=
  leaves_ite (leaves_ok.2 rfl) leaves_error

theorem RvState.params_store (a : Nat) (v : BitVec w) : Leaves RvState.params p.params (p.store a v) :=
  leaves_ite leaves_error (leaves_ite leaves_error (leaves_ok.2 ((p.put a v).afterStore_params a (w / 8))))

theorem params_rvWrite (rd : BitVec 5) (v : BitVec n) : Leaves RvState.params p.params (rvWrite rd v p) :=
  leaves_ok.2 (p.setReg_params rd v)

theorem params_rvLoad (w : Nat) (ext : (n : Nat) → BitVec w → BitVec n) (rd : BitVec 5) (off : BitVec 12)
    (rs1 : BitVec 5) : Leaves RvState.params p.params (rvLoad w ext rd off rs1 p) := by
  unfold rvLoad
  cases p.load w (p.ea rs1 off) with
  | error e => exact leaves_error
  | ok v => exact params_rvWrite p rd _

theorem params_rvShift {legal : RvState → Bool} {body : RvState → Body RvState}
    (h : Leaves RvState.params p.params (body p)) : Leaves RvState.params p.params (rvShift legal body p) :=
  leaves_ite h leaves_error

theorem params_rvRemainder (b : Word) {body : Body RvState} (h : Leaves RvState.params p.params body) :
    Leaves RvState.params p.params (rvRemainder b p body) :=
  leaves_ite leaves_error h

theorem params_rvBneBody (rs1 rs2 : BitVec 5) (off : BitVec 12) :
    Leaves RvState.params p.params (rvBneBody rs1 rs2 off p) :=
  leaves_ite (p.params_jump _) (leaves_ok.2 rfl)

theorem params_rvLoadReserved (w : Nat) (rd rs1 : BitVec 5) :
    Leaves RvState.params p.params (rvLoadReserved w rd rs1 p) := by
  refine leaves_ite ?_ leaves_error
  cases p.load w (p.addr rs1) with
  | error e => exact leaves_error
  | ok v => exact leaves_ok.2 (p.setReg_params rd _)

theorem RvState.scSucceeds_params (a : Nat) : (p.scSucceeds a).2.params = p.params := by
  unfold RvState.scSucceeds
  cases p.reservation with
  | none => rfl
  | some r => dsimp only; split_ifs <;> rfl

theorem params_rvScDBody (rd rs2 rs1 : BitVec 5) : Leaves RvState.params p.params (rvScDBody rd rs2 rs1 p) := by
  have drawn := p.scSucceeds_params (p.addr rs1)
  refine leaves_ite (leaves_ite leaves_error (leaves_ite (leaves_ite leaves_error (leaves_ok.2 ?_)) (leaves_ok.2 ?_)))
    leaves_error
  · exact (RvState.setReg_params _ rd 0#64).trans drawn
  · exact (RvState.setReg_params _ rd _).trans drawn

theorem params_rvAmoaddDBody (rd rs2 rs1 : BitVec 5) :
    Leaves RvState.params p.params (rvAmoaddDBody rd rs2 rs1 p) := by
  refine leaves_ite ?_ leaves_error
  cases p.load 64 (p.addr rs1) with
  | error e => exact leaves_error
  | ok t =>
    have stored := p.params_store (p.addr rs1) (t + p.reg 64 rs2)
    dsimp only
    cases h : p.store (p.addr rs1) (t + p.reg 64 rs2) with
    | error e => exact leaves_error
    | ok q => exact leaves_ok.2 ((q.setReg_params rd t).trans (stored q h))

theorem params_rvReturnMachine : Leaves RvState.params p.params (rvReturnMachine p) := by
  refine leaves_ite leaves_error ?_
  cases p.modeOf p.mpp with
  | none => exact leaves_error
  | some m =>
    dsimp only
    cases h : p.jump p.mepc with
    | error e => exact leaves_error
    | ok q => exact leaves_ok.2 (p.params_jump p.mepc q h)

theorem params_rvReturnSupervisor : Leaves RvState.params p.params (rvReturnSupervisor p) := by
  refine leaves_ite leaves_error ?_
  cases h : p.jump p.sepc with
  | error e => exact leaves_error
  | ok q => exact leaves_ok.2 (p.params_jump p.sepc q h)

end

/-- P6: an instruction keeps the parameters. -/
theorem exec_changesOnly_p6 {i : Instr} (h : i.part = .p6) (s : State) : Nexts (ChangesOnly s .p6) (exec i s) := by
  cases i <;> dsimp only [exec]
  case rvLh | rvLw | rvLd | rvLhu | rvLwu => exact rvDo_changesOnly fun p => params_rvLoad p _ _ _ _ _
  case rvSb | rvSh | rvSw => exact rvDo_changesOnly fun p => p.params_store _ _
  case rvSlli | rvSrli | rvSlliw | rvSrliw =>
    exact rvDo_changesOnly fun p => params_rvShift p (params_rvWrite p _ _)
  case rvRemw | rvRemuw => exact rvDo_changesOnly fun p => params_rvRemainder p _ (params_rvWrite p _ _)
  case rvAddi | rvSlti | rvSltiu | rvOri | rvAddiw | rvAdd | rvSll | rvSlt | rvSltu | rvSrl | rvOr | rvLui | rvAddw |
      rvSllw | rvSraw | rvNeg | rvNegw | rvNot | rvNop | rvLi | rvCAdd | rvCAddi | rvCAddi16sp | rvCAddi4spn =>
    exact rvDo_changesOnly fun p => params_rvWrite p _ _
  case rvRdcycle => exact rvDo_changesOnly fun p => leaves_ok.2 (RvState.setReg_params _ _ _)
  case rvLrW | rvLrD => exact rvDo_changesOnly fun p => params_rvLoadReserved p _ _ _
  case rvScD => exact rvDo_changesOnly fun p => params_rvScDBody p _ _ _
  case rvAmoaddD => exact rvDo_changesOnly fun p => params_rvAmoaddDBody p _ _ _
  case rvBne | rvBnez => exact rvJumpDo_changesOnly fun p => params_rvBneBody p _ _ _
  case rvMret => exact rvJumpDo_changesOnly params_rvReturnMachine
  case rvSret => exact rvJumpDo_changesOnly params_rvReturnSupervisor
  case rvRet => exact rvJumpDo_changesOnly fun p => p.params_jump _
  all_goals cases h

/-! ### The step -/

/-- An instruction changes the part whose instruction it is, and keeps that part's parameters. -/
theorem exec_changesOnly (i : Instr) (s : State) : Nexts (ChangesOnly s i.part) (exec i s) := by
  cases h : i.part with
  | p1 => exact exec_changesOnly_p1 h s
  | p2 => exact exec_changesOnly_p2 h s
  | p3 => exact exec_changesOnly_p3 h s
  | p4 => exact exec_changesOnly_p4 h s
  | p5 => exact exec_changesOnly_p5 h s
  | p6 => exact exec_changesOnly_p6 h s

theorem part_decoded {p : Part} {d : Decoded Instr} (h : Leaves Instr.part p d) : Leaves Instr.part p (decoded d) := by
  cases d with
  | error e => exact leaves_error
  | ok i => exact leaves_ok.2 (leaves_ok.1 h)

theorem part_x86Fetch (x : X86State) : Leaves Instr.part .p1 x.fetch := by
  have d := part_decode .p1 x.segs.cs.desc.big (.bytes (x.codeBytes x86MaxLength x.eip).1)
  unfold X86State.fetch
  dsimp only
  split
  · exact leaves_error
  · exact part_decoded d

/-- The instruction that a step fetches is one of the part that runs. -/
theorem part_fetch (s : State) : Leaves Instr.part s.part (fetch s) := by
  unfold fetch
  cases s.part with
  | p1 => exact part_x86Fetch s.x86
  | p2 => exact leaves_ite leaves_error (leaves_ite leaves_error (part_decoded (part_decode .p2 _ _)))
  | p3 => exact part_decoded (part_decode .p3 _ _)
  | p4 => exact part_decoded (part_decode .p4 _ _)
  | p5 => exact leaves_ite leaves_error (leaves_ite leaves_error (part_decoded (part_decode .p5 _ _)))
  | p6 =>
    exact leaves_ite leaves_error (leaves_ite (part_decoded (part_decode .p6 _ _))
      (leaves_ite leaves_error (part_decoded (part_decode .p6 _ _))))

/-- The one step without an instruction that has a next state skips an annulled one in P4. -/
theorem beforeFetch_changesOnly {s : State} {r : Result} (h : beforeFetch s = some r) :
    Nexts (ChangesOnly s s.part) r := by
  unfold beforeFetch at h
  split at h
  case h_1 =>
    split at h <;> cases h
    exact fun _ e => nomatch e
  case h_2 hp =>
    split at h <;> cases h
    have skipped : ChangesOnly s .p4 { s with sparc := s.sparc.skipped } := ⟨_, rfl, rfl⟩
    exact nexts_next (hp.symm ▸ skipped)
  case h_3 => cases h

/-- A step changes the part that runs, and keeps its parameters and P1's system bits. -/
theorem step_changesOnly (s : State) : Nexts (ChangesOnly s s.part) (step s) := by
  unfold step
  cases hb : beforeFetch s with
  | some r => exact beforeFetch_changesOnly hb
  | none =>
    dsimp only
    cases hf : fetch s with
    | ok i => exact part_fetch s i hf ▸ exec_changesOnly i s
    | error e => exact nexts_finish (f := ChangesOnly s s.part) (k := True) leaves_error fun _ => of_eq_true

/-- Settles O8: the part of a decoded instruction is the one that fetched it, and its meaning is a body of that part,
which keeps the parameters. -/
theorem stepChangesOnePart : Obligations.StepChangesOnePart := by
  unfold Obligations.StepChangesOnePart
  intro s t h
  have changes := step_changesOnly s t h
  cases hp : s.part <;> rw [hp] at changes <;> obtain ⟨y, rfl, hy⟩ := changes
  case p1 =>
    obtain ⟨hpe, hvm, hiopl, hcpl, hac, hie, hparams⟩ := X86System.mk.inj hy
    simp [hpe, hvm, hiopl, hcpl, hac, hie, hparams, hp]
  all_goals simp [hy, hp]

end Sys2Proof.Machine
end

section
/-! PROOFS, X86_SEG (spec/20_memory.md R104 to R107): the order of its checks, and what a listed paging answers. -/

namespace Sys2Proof.Machine

/-! ### The checks of an access in protected mode -/

theorem limitExc_eq (g : X86Sreg) : limitExc g = if g = .ss then .ss 0 else .gp 0 := by
  cases g <;> rfl

theorem Region.has_eq_true (r : Region) (a : Nat) : Region.has r a = true ↔ InRegion [r] a := by
  simp [Region.has, InRegion]

/-- An access allowed in protected mode lies where the paging says. -/
theorem X86State.pageOf_of_allows {x : X86State} {g : X86Sreg} {off : Word} {n : Nat} {kind : X86Access}
    (h : x.Allows g off n kind) (hp : x.Protected) :
    x.pageOf (x.linearOf g off n kind) n kind = .lies (x.locate g off n kind) := by
  obtain ⟨hnull, hwrite, hlimit, halign, hpage⟩ := h.1 hp
  have located := x.xseg_of_allows g off n kind h
  rw [X86State.xseg_eq, if_neg (not_not_intro hp), if_neg hnull, if_neg hwrite, if_neg hlimit, if_neg halign] at located
  cases e : x.pageOf (x.linearOf g off n kind) n kind with
  | fault code => exact absurd (by simp [X86PageAnswer.code, e]) hpage
  | lies b => rw [e] at located; rw [Except.ok.inj located]

/-- An access allowed outside protected mode lies at its linear address. -/
theorem X86State.locate_of_allows {x : X86State} {g : X86Sreg} {off : Word} {n : Nat} {kind : X86Access}
    (h : x.Allows g off n kind) (hp : ¬ x.Protected) : x.locate g off n kind = x.linearOf g off n kind := by
  have located := x.xseg_of_allows g off n kind h
  rw [X86State.xseg_eq, if_pos hp, h.2 hp] at located
  exact (Except.ok.inj located).symm

/-- Outside protected mode the parameter alone faults (notes/assumptions/14.md). -/
theorem X86State.xseg_of_unlisted {x : X86State} {g : X86Sreg} {off : Word} {n : Nat} {kind : X86Access} {e : X86Exc}
    (hp : ¬ x.Protected) (h : x.unlistedFault g off n kind = some e) : x.xseg g off n kind = .error e := by
  rw [X86State.xseg_eq, if_pos hp, h]

section
variable {x : X86State} {g : X86Sreg} {off : Word} {n : Nat} {kind : X86Access} (hp : x.Protected)
include hp

theorem X86State.xseg_of_nullRef (h : x.NullRef g) : x.xseg g off n kind = .error (.gp 0) := by
  rw [X86State.xseg_eq, if_neg (not_not_intro hp), if_pos h]

theorem X86State.xseg_of_readOnly (hnull : ¬ x.NullRef g) (h : x.ReadOnly g kind) :
    x.xseg g off n kind = .error (.gp 0) := by
  rw [X86State.xseg_eq, if_neg (not_not_intro hp), if_neg hnull, if_pos h]

variable (free : ¬ x.NullRef g ∧ ¬ x.ReadOnly g kind)
include free

theorem X86State.xseg_of_outside (h : x.Outside g off n) :
    x.xseg g off n kind = .error (if g = .ss then .ss 0 else .gp 0) := by
  rw [X86State.xseg_eq, if_neg (not_not_intro hp), if_neg free.1, if_neg free.2, if_pos h, limitExc_eq]

theorem X86State.xseg_of_unaligned (hlimit : ¬ x.Outside g off n)
    (h : x.Unaligned (x.linearOf g off n kind) n) : x.xseg g off n kind = .error (.ac 0) := by
  rw [X86State.xseg_eq, if_neg (not_not_intro hp), if_neg free.1, if_neg free.2, if_neg hlimit, if_pos h]

variable (hlimit : ¬ x.Outside g off n) (halign : ¬ x.Unaligned (x.linearOf g off n kind) n)
include hlimit halign

theorem X86State.xseg_of_pageFault {code : Word} (h : x.pageOf (x.linearOf g off n kind) n kind = .fault code) :
    x.xseg g off n kind = .error (.pf code) := by
  rw [X86State.xseg_eq, if_neg (not_not_intro hp), if_neg free.1, if_neg free.2, if_neg hlimit, if_neg halign, h]

theorem X86State.xseg_of_pageLies {b : Word} (h : x.pageOf (x.linearOf g off n kind) n kind = .lies b) :
    x.xseg g off n kind = .ok b := by
  rw [X86State.xseg_eq, if_neg (not_not_intro hp), if_neg free.1, if_neg free.2, if_neg hlimit, if_neg halign, h]

end

/-! ### The listed paging -/

/-- The rule that gives one byte its answer covers the byte and the kind of the access; it faults with its own code, or
moves the byte with its region. -/
theorem pageRuleAt_eq_some {l : List X86PageRule} {kind : X86Access} {a : Nat} {r : X86PageAnswer}
    (h : pageRuleAt l kind a = some r) : ∃ p ∈ l, InRegion [p.region] a ∧ kind ∈ p.kinds ∧
      ((∃ code, p.answer = .fault code ∧ r = .fault code) ∨
        ∃ b, p.answer = .lies b ∧ r = .lies (b + BitVec.ofNat 32 (a - p.region.base))) := by
  obtain ⟨p, hfind, hr⟩ := Option.map_eq_some_iff.1 h
  have covers := List.find?_some hfind
  rw [Bool.and_eq_true, Region.has_eq_true, List.contains_iff_mem] at covers
  refine ⟨p, List.mem_of_find?_eq_some hfind, covers.1, covers.2, ?_⟩
  cases e : p.answer with
  | fault code => rw [e] at hr; exact .inl ⟨code, rfl, hr.symm⟩
  | lies b => rw [e] at hr; exact .inr ⟨b, rfl, hr.symm⟩

/-- A byte that faults is one that a rule of the list makes fault. -/
theorem pageRuleAt_eq_fault {l : List X86PageRule} {kind : X86Access} {a : Nat} {code : Word}
    (h : pageRuleAt l kind a = some (.fault code)) :
    ∃ p ∈ l, p.answer = .fault code ∧ kind ∈ p.kinds ∧ InRegion [p.region] a := by
  obtain ⟨p, hp, covers, hk, ⟨c, ha, hc⟩ | ⟨b, -, hb⟩⟩ := pageRuleAt_eq_some h
  · cases hc
    exact ⟨p, hp, ha, hk, covers⟩
  · cases hb

/-- A page fault comes from a rule that covers one of the bytes. -/
theorem pageAnswer_eq_fault {l : List X86PageRule} {kind : X86Access} {a : Word} {n : Nat} {code : Word} (hn : 0 < n)
    (h : pageAnswer l kind a n = .fault code) : ∃ p ∈ l, p.answer = .fault code ∧ kind ∈ p.kinds ∧
      ∃ j, j < n ∧ InRegion [p.region] ((a.toNat + j) % top32) := by
  have byteFaults : ∃ j, j < n ∧ pageRuleAt l kind ((a.toNat + j) % top32) = some (.fault code) := by
    unfold pageAnswer at h
    split at h
    case h_1 c hc =>
      cases h
      obtain ⟨j, hj, hcode⟩ := List.exists_of_findSome?_eq_some hc
      obtain ⟨r, hr, hrc⟩ := Option.bind_eq_some_iff.1 hcode
      cases r with
      | lies b => cases hrc
      | fault c => cases hrc; exact ⟨j, List.mem_range.1 hj, hr⟩
    case h_2 =>
      refine ⟨0, hn, ?_⟩
      rw [Nat.add_zero, Nat.mod_eq_of_lt a.isLt]
      cases e : pageRuleAt l kind a.toNat with
      | none => rw [e] at h; cases h
      | some r => rw [e] at h; exact congrArg some h
  obtain ⟨j, hj, hf⟩ := byteFaults
  obtain ⟨p, hp, ha, hk, covers⟩ := pageRuleAt_eq_fault hf
  exact ⟨p, hp, ha, hk, j, hj, covers⟩

/-- An access lies at its linear address, or where a rule that covers its first byte moves it. -/
theorem pageAnswer_eq_lies {l : List X86PageRule} {kind : X86Access} {a c : Word} {n : Nat}
    (h : pageAnswer l kind a n = .lies c) : c = a ∨ ∃ p ∈ l, ∃ q, p.answer = .lies q ∧ kind ∈ p.kinds ∧
      InRegion [p.region] a.toNat ∧ c.toNat = (q.toNat + (a.toNat - p.region.base)) % top32 := by
  unfold pageAnswer at h
  split at h
  · cases h
  cases e : pageRuleAt l kind a.toNat with
  | none => rw [e] at h; cases h; exact .inl rfl
  | some r =>
    rw [e] at h
    obtain rfl : r = .lies c := h
    obtain ⟨p, hp, covers, hk, ⟨code, -, hcode⟩ | ⟨q, hq, hc⟩⟩ := pageRuleAt_eq_some e
    · cases hcode
    · cases hc
      refine .inr ⟨p, hp, q, hq, hk, covers, ?_⟩
      rw [BitVec.toNat_add, BitVec.toNat_ofNat, Nat.add_mod_mod]

theorem pageAnswer_nil (kind : X86Access) (a : Word) (n : Nat) : pageAnswer [] kind a n = .lies a := by
  have none : ((List.range n).findSome? fun j =>
      (pageRuleAt [] kind ((a.toNat + j) % top32)).bind X86PageAnswer.code) = none :=
    List.findSome?_eq_none_iff.2 fun _ _ => rfl
  unfold pageAnswer
  rw [none]
  rfl

/-! ### Base plus offset, with a listed paging -/

section
variable {x : X86State} {pages : List X86PageRule} (h : x.params.seg = .based pages)
include h

theorem X86State.linearOf_based (g : X86Sreg) (off : Word) (n : Nat) (kind : X86Access) :
    x.linearOf g off n kind = (x.segs.get g).desc.base + off := by
  simp [X86State.linearOf, h]

theorem X86State.unlistedFault_based (g : X86Sreg) (off : Word) (n : Nat) (kind : X86Access) :
    x.unlistedFault g off n kind = none := by
  simp [X86State.unlistedFault, h]

theorem X86State.pageOf_based (a : Word) (n : Nat) (kind : X86Access) :
    x.pageOf a n kind = pageAnswer pages kind a n := by
  simp [X86State.pageOf, h]

end

/-- The flat default (spec/20_memory.md R104): the whole address space from 0, no paging, nothing but a null selector to
forbid an access that is aligned where alignment is checked. -/
theorem X86State.xseg_flat {x : X86State} {g : X86Sreg} {off : Word} {n : Nat} {kind : X86Access}
    (h : x.params.seg = .based []) (hbase : (x.segs.get g).desc.base = 0)
    (hlimit : (x.segs.get g).desc.limit = 0xFFFFFFFF#32) (hwrite : (x.segs.get g).desc.writable = true)
    (halign : ¬ x.Unaligned off n) :
    x.xseg g off n kind = if x.Protected ∧ x.NullRef g then .error (.gp 0) else .ok off := by
  have linear : x.linearOf g off n kind = off := by rw [X86State.linearOf_based h, hbase]; exact BitVec.zero_add off
  have writable : ¬ x.ReadOnly g kind := fun e => Bool.noConfusion (hwrite.symm.trans e.2)
  have inside : ¬ x.Outside g off n := by
    rintro ⟨j, -, hj⟩
    rw [hlimit] at hj
    exact absurd (Nat.mod_lt (off.toNat + j) (by decide : 0 < top32)) (Nat.not_lt.2 hj)
  by_cases hp : x.Protected
  · by_cases hnull : x.NullRef g
    · rw [if_pos ⟨hp, hnull⟩, X86State.xseg_of_nullRef hp hnull]
    · have lies : x.pageOf (x.linearOf g off n kind) n kind = .lies off := by
        rw [X86State.pageOf_based h, pageAnswer_nil, linear]
      rw [if_neg fun e => hnull e.2,
        X86State.xseg_of_pageLies hp ⟨hnull, writable⟩ inside (linear.symm ▸ halign) lies]
  · rw [if_neg fun e => hp e.1, X86State.xseg_eq, if_pos hp, X86State.unlistedFault_based h, linear]

/-- Settles O14: one lemma for each check, in the order in which X86_SEG makes them, and for each thing that a list of
paging rules can answer. -/
theorem x86AccessChecks : Obligations.X86AccessChecks := by
  unfold Obligations.X86AccessChecks
  intro x g off n kind pages a lies free
  refine ⟨fun h => ⟨x.xseg_of_allows g off n kind h, X86State.pageOf_of_allows h, X86State.locate_of_allows h⟩,
    fun hp e he => X86State.xseg_of_unlisted hp he,
    fun hp => ⟨X86State.xseg_of_nullRef hp, X86State.xseg_of_readOnly hp, X86State.xseg_of_outside hp,
      X86State.xseg_of_unaligned hp, fun hfree hlimit halign _ hcode =>
        X86State.xseg_of_pageFault hp hfree hlimit halign hcode⟩,
    fun h => ⟨X86State.linearOf_based h g off n kind, X86State.unlistedFault_based h g off n kind,
      fun hn b code hb => ?_, fun b c hb => ?_⟩,
    X86State.xseg_flat⟩
  · exact pageAnswer_eq_fault hn (X86State.pageOf_based h b n kind ▸ hb)
  · exact pageAnswer_eq_lies (X86State.pageOf_based h b n kind ▸ hb)

end Sys2Proof.Machine
end

section
/-! PROOFS, the invariant (spec/10_state.md R23, R41, R55 to R61; spec/20_memory.md R100, R113, R116): it holds after
reset, and what the operations of P1 leave of it. -/

namespace Sys2Proof.Machine

/-- Settles O6: every memory after reset is canonical, every program counter is 0 (P4's nPC 4), and no segment
is null. -/
theorem resetKeepsInvariant : Obligations.ResetKeepsInvariant := by
  unfold Obligations.ResetKeepsInvariant
  obtain ⟨hx86, harm, hppc, hsparc, hmips, hrv, hx86Stored, hrvStored⟩ := State.reset_memories_wf
  refine ⟨⟨hx86, hx86Stored, rfl, rfl, rfl, by decide⟩, ⟨harm, fun _ => by decide⟩, ⟨hppc, by decide⟩,
    ⟨hsparc, by decide, by decide⟩, ⟨hmips, fun _ => ⟨rfl, rfl⟩⟩, ⟨hrv, hrvStored, by decide, by decide, ?_, rfl⟩⟩
  exact fun h => absurd h (by decide)

/-! ### A property of what a body answers -/

/-- Where `b` answers a value, `P` holds of it. -/
def Ensures (P : σ → Prop) (b : Except ε σ) : Prop := ∀ q, b = .ok q → P q

theorem ensures_ok {P : σ → Prop} {q : σ} (h : P q) : Ensures P (.ok q : Except ε σ) := fun _ e => by cases e; exact h

theorem ensures_error {P : σ → Prop} {e : ε} : Ensures P (.error e : Except ε σ) := fun _ h => nomatch h

theorem ensures_ite {P : σ → Prop} {c : Prop} [Decidable c] {a b : Except ε σ} (ha : Ensures P a)
    (hb : Ensures P b) : Ensures P (if c then a else b) := by
  split
  · exact ha
  · exact hb

/-- A body's next state is the one that it answers. -/
theorem nexts_finish_of_ensures {P : State → Prop} {Q : σ → Prop} {s : State} {put : σ → State} {b : Body σ}
    (hb : Ensures Q b) (hp : ∀ q, Q q → P (put q)) : Nexts P (finish s put b) :=
  nexts_finish (f := Q) (k := True) (fun q e => eq_true (hb q e)) fun q hq => hp q (of_eq_true hq)

/-! ### P1: the operations -/

/-- A segment register that is null is DS, ES, FS or GS, and holds a null selector (spec/10_state.md R23). -/
def X86Segs.Legal (g : X86Segs) : Prop :=
  ∀ r, (g.get r).null = true → faultsNull r = true ∧ isNullSelector (g.get r).sel = true

theorem X86Segs.legal_iff (g : X86Segs) : g.Legal ↔ g.cs.null = false ∧ g.ss.null = false ∧
    ∀ r ∈ [X86Sreg.ds, .es, .fs, .gs], (g.get r).null = true → isNullSelector (g.get r).sel = true := by
  constructor
  · intro h
    exact ⟨Bool.eq_false_iff.2 fun e => absurd (h .cs e).1 (by decide),
      Bool.eq_false_iff.2 fun e => absurd (h .ss e).1 (by decide), fun r _ e => (h r e).2⟩
  · rintro ⟨hcs, hss, hnull⟩ r e
    cases r with
    | cs => exact absurd e (Bool.eq_false_iff.1 hcs)
    | ss => exact absurd e (Bool.eq_false_iff.1 hss)
    | ds | es | fs | gs => exact ⟨rfl, hnull _ (by decide) e⟩

theorem X86Segs.get_set (g : X86Segs) (r sg : X86Sreg) (v : X86Seg) :
    (g.set sg v).get r = if r = sg then v else g.get r := by
  cases sg <;> cases r <;> rfl

/-- The part of P1's invariant that holds in the middle of an instruction too, where bytes that modify it are in
force. -/
structure X86State.Sound (x : X86State) : Prop where
  mem : Memory.wf top32 x.mem
  stored : StoredSet.wf x.stored
  segs : X86Segs.Legal x.segs

theorem X86State.inv_iff (x : X86State) : x.Inv ↔ x.Sound ∧ x.pfx = .none := by
  constructor
  · rintro ⟨hmem, hstored, hpfx, hsegs⟩
    exact ⟨⟨hmem, hstored, x.segs.legal_iff.2 hsegs⟩, hpfx⟩
  · rintro ⟨⟨hmem, hstored, hsegs⟩, hpfx⟩
    exact ⟨hmem, hstored, hpfx, x.segs.legal_iff.1 hsegs⟩

/-- A segment register that the rule of R23 allows may be loaded. -/
theorem X86Segs.Legal.set {g : X86Segs} (h : g.Legal) (sg : X86Sreg) (v : X86Seg)
    (hv : v.null = true → faultsNull sg = true ∧ isNullSelector v.sel = true) : X86Segs.Legal (g.set sg v) := by
  intro r
  rw [g.get_set]
  split
  · subst r
    exact hv
  · exact h r

section
variable {x : X86State} (hx : x.Sound)
include hx

/-- Memory, the stored addresses and the segment registers are all that `Sound` speaks of. -/
theorem X86State.Sound.congr {y : X86State} (hm : y.mem = x.mem) (ht : y.stored = x.stored) (hg : y.segs = x.segs) :
    y.Sound :=
  ⟨hm ▸ hx.mem, ht ▸ hx.stored, hg ▸ hx.segs⟩

theorem X86State.Sound.store (a : Word) (v : BitVec w) : (x.store a v).Sound where
  mem := Memory.wf_write .little top32 (by decide) x.mem a.toNat v hx.mem
  stored := StoredSet.wf_addRange top32 (w / 8) x.stored a.toNat hx.stored
  segs := hx.segs

theorem X86State.Sound.setSp (v : Word) : (x.setSp v).Sound :=
  hx.congr (x.setSp_mem v) (x.setSp_stored v) (x.setSp_segs v)

theorem X86State.Sound.countDown : x.countDown.Sound :=
  hx.congr x.countDown_mem x.countDown_stored x.countDown_segs

theorem X86State.Sound.inhibit (b : Bool) : (x.inhibit b).Sound :=
  hx.congr (x.inhibit_mem b) (x.inhibit_stored b) (x.inhibit_segs b)

theorem X86State.Sound.wrapLoc (m : X86Mem) : (x.wrapLoc m).2.Sound := by
  obtain ⟨d, h⟩ := x.wrapLoc_state m
  exact h ▸ hx.congr rfl rfl rfl

omit hx in
theorem X86State.sound_atOpSize {body : Nat → Body X86State} (h : ∀ w, Ensures X86State.Sound (body w)) :
    Ensures X86State.Sound (x.atOpSize body) :=
  ensures_ite (h 32) (h 16)

theorem X86State.Sound.writeSeg (g : X86Sreg) (off : Word) (kind : X86Access) (v : BitVec w) :
    Ensures X86State.Sound (x.writeSeg g off kind v) := by
  unfold X86State.writeSeg
  cases x.xseg g off (w / 8) kind with
  | error e => exact ensures_error
  | ok a => exact ensures_ok (hx.store a v)

theorem X86State.Sound.writeRM (rm : X86RM) (v : BitVec w) : Ensures X86State.Sound (x.writeRM rm v) := by
  cases rm with
  | reg n => exact ensures_ok (hx.congr rfl rfl rfl)
  | mem m => exact hx.writeSeg _ _ _ v

theorem X86State.Sound.checkWriteRM (w : Nat) (rm : X86RM) : Ensures X86State.Sound (x.checkWriteRM w rm) := by
  cases rm with
  | reg n => exact ensures_ok hx
  | mem m =>
    unfold X86State.checkWriteRM
    dsimp only
    cases x.xseg (x.segOf m) (x.ea m) (w / 8) .write with
    | error e => exact ensures_error
    | ok a => exact ensures_ok hx

theorem X86State.Sound.push (v : BitVec w) : Ensures X86State.Sound (x.push v) := by
  refine ensures_ite ensures_error ?_
  have stored := hx.writeSeg .ss (x.spPlus (-(BitVec.ofNat 32 (w / 8)))) .stackWrite v
  cases h : x.writeSeg .ss (x.spPlus (-(BitVec.ofNat 32 (w / 8)))) .stackWrite v with
  | error e => exact ensures_error
  | ok y => exact ensures_ok ((stored y h).setSp _)

theorem X86State.Sound.pop (w : Nat) : Ensures (fun r => r.2.Sound) (x.pop w) := by
  refine ensures_ite ensures_error ?_
  cases x.readSeg w .ss x.sp .stackRead with
  | error e => exact ensures_error
  | ok v => exact ensures_ok (hx.setSp _)

theorem X86State.Sound.guardPush {b : Body X86State} (h : Ensures X86State.Sound b) :
    Ensures X86State.Sound (x.guardPush b) :=
  ensures_ite (ensures_ok (hx.congr rfl rfl rfl)) h

theorem X86State.Sound.jumpNear (target : Word) : Ensures X86State.Sound (x.jumpNear target) :=
  ensures_ite ensures_error (ensures_ok (hx.congr rfl rfl rfl))

/-- A segment load: a null selector makes DS, ES, FS or GS null, and any other load makes the register valid. -/
theorem X86State.Sound.loadSeg (g : X86Sreg) (sel : Half) : Ensures X86State.Sound (x.loadSeg g sel) := by
  unfold X86State.loadSeg
  by_cases hnull : x.mode = .prot ∧ isNullSelector sel = true
  · rw [if_pos hnull]
    by_cases hg : faultsNull g = true
    · rw [if_pos hg]
      exact ensures_ok ⟨hx.mem, hx.stored, hx.segs.set g _ fun _ => ⟨hg, hnull.2⟩⟩
    · rw [if_neg hg]
      exact ensures_error
  · rw [if_neg hnull]
    have drawn : (x.segLoad g sel).2.Sound := by
      unfold X86State.segLoad
      split
      · exact hx
      · exact hx.congr rfl rfl rfl
    cases (x.segLoad g sel).1 with
    | raises e => exact ensures_error
    | loaded d => exact ensures_ok ⟨drawn.mem, drawn.stored, hx.segs.set g _ fun e => nomatch e⟩

end

/-! ### P1: the bodies -/

/-- An arithmetic operation writes neither memory nor segment registers. -/
def AluOp.KeepsSound (op : AluOp) : Prop := ∀ w x (a b : BitVec w), x.Sound → (op w x a b).2.Sound

section
variable {w : Nat} {x : X86State} (hx : x.Sound)
include hx

theorem sound_aluToRM {op : AluOp} (hop : op.KeepsSound) (rm : X86RM) (src : BitVec w) :
    Ensures X86State.Sound (aluToRM op w rm src x) := by
  unfold aluToRM
  cases x.readRM w rm with
  | error e => exact ensures_error
  | ok d => exact (hop w x d src hx).writeRM rm _

theorem sound_aluToReg {op : AluOp} (hop : op.KeepsSound) (r : BitVec 3) (rm : X86RM) :
    Ensures X86State.Sound (aluToReg op w r rm x) := by
  unfold aluToReg
  cases x.readRM w rm with
  | error e => exact ensures_error
  | ok b => exact ensures_ok ((hop w x _ b hx).congr rfl rfl rfl)

theorem sound_aluToAcc {op : AluOp} (hop : op.KeepsSound) (v : BitVec w) :
    Ensures X86State.Sound (aluToAcc op w v x) :=
  ensures_ok ((hop w x _ v hx).congr rfl rfl rfl)

theorem sound_movToReg (r : BitVec 3) (rm : X86RM) : Ensures X86State.Sound (movToReg w r rm x) := by
  unfold movToReg
  cases x.readRM w rm with
  | error e => exact ensures_error
  | ok v => exact ensures_ok (hx.congr rfl rfl rfl)

theorem sound_movFromMoffs (off : BitVec 32) : Ensures X86State.Sound (movFromMoffs w off x) := by
  unfold movFromMoffs
  cases x.readSeg w x.moffsSeg (x.moffs off) .read with
  | error e => exact ensures_error
  | ok v => exact ensures_ok (hx.congr rfl rfl rfl)

theorem sound_movSelector (rm : X86RM) (sel : Half) : Ensures X86State.Sound (movSelector rm sel x) := by
  cases rm with
  | mem m => exact hx.writeRM (.mem m) sel
  | reg n => exact ensures_ite (ensures_ok (hx.congr rfl rfl rfl)) (ensures_ok (hx.congr rfl rfl rfl))

theorem sound_shrdBody (rm : X86RM) (src : BitVec w) (count : Nat) :
    Ensures X86State.Sound (shrdBody w rm src count x) := by
  have drawn (d : Nat) (f : X86Flags) : X86State.Sound { x with draws := d, flags := f } := hx.congr rfl rfl rfl
  unfold shrdBody
  cases x.readRM w rm with
  | error e => exact ensures_error
  | ok d =>
    exact ensures_ite (hx.checkWriteRM w rm)
      (ensures_ite ((drawn _ _).writeRM rm _) ((drawn _ _).writeRM rm _))

theorem sound_xchgBody (rm : X86RM) (r : BitVec 3) : Ensures X86State.Sound (xchgBody w rm r x) := by
  unfold xchgBody
  cases x.readRM w rm with
  | error e => exact ensures_error
  | ok t =>
    have written := hx.writeRM rm (x.readReg w r)
    cases h : x.writeRM rm (x.readReg w r) with
    | error e => exact ensures_error
    | ok y => exact ensures_ok ((written y h).congr rfl rfl rfl)

theorem sound_pushSelector (g : X86Sreg) : Ensures X86State.Sound (pushSelector g x) := by
  have drawn : (x.draw 16).2.Sound := hx.congr rfl rfl rfl
  exact hx.guardPush (ensures_ite (drawn.push _) (hx.push _))

theorem sound_popToMem (m : X86Mem) : Ensures X86State.Sound (popToMem w m x) := by
  unfold popToMem
  cases h : x.pop w with
  | error e => exact ensures_error
  | ok r =>
    have popped : r.2.Sound := hx.pop w r h
    exact ensures_ite ((popped.wrapLoc m).writeSeg _ _ _ _) (popped.writeSeg _ _ _ _)

theorem sound_popSelector (g : X86Sreg) : Ensures X86State.Sound (popSelector g x) := by
  refine X86State.sound_atOpSize fun w => ?_
  cases h : x.pop w with
  | error e => exact ensures_error
  | ok r => exact X86State.Sound.loadSeg (hx.pop w r h) g _

theorem sound_loopBody (rel : BitVec 8) (cond : Bool) : Ensures X86State.Sound (loopBody rel cond x) :=
  ensures_ite (hx.countDown.jumpNear _) (ensures_ok hx.countDown)

theorem sound_retBody (extra : Word) : Ensures X86State.Sound (retBody extra x) := by
  refine X86State.sound_atOpSize fun w => ensures_ite ensures_error (ensures_ite ensures_error ?_)
  cases h : x.pop w with
  | error e => exact ensures_error
  | ok r =>
    have jumped := X86State.Sound.jumpNear (hx.pop w r h) (r.1.setWidth 32)
    dsimp only
    cases hz : r.2.jumpNear (r.1.setWidth 32) with
    | error e => exact ensures_error
    | ok z => exact ensures_ok ((jumped z hz).setSp _)

end

/-! ### P1: the instructions -/

/-- The end of an instruction drops the bytes in force, so a body that keeps `Sound` ends in the invariant. -/
theorem x86Do_inv {i : Instr} {body : X86State → Body X86State} {s : State} (hs : s.x86.Sound)
    (h : ∀ x : X86State, x.Sound → Ensures X86State.Sound (body x)) : Nexts (fun t => t.x86.Inv) (x86Do i body s) :=
  nexts_finish_of_ensures (h (s.x86.entered i) (hs.congr rfl rfl rfl)) fun _ hq =>
    (X86State.inv_iff _).2 ⟨hq.congr rfl rfl rfl, rfl⟩

section
variable {s : State} (hs : s.x86.Sound)
include hs

theorem execX86PushRm_inv (rm : X86RM) : Nexts (fun t => t.x86.Inv) (execX86PushRm rm s) := by
  refine x86Do_inv hs fun x hx => hx.guardPush (X86State.sound_atOpSize fun w => ?_)
  cases x.readRM w rm with
  | error e => exact ensures_error
  | ok v => exact hx.push v

theorem execX86PopReg_inv (r : BitVec 3) : Nexts (fun t => t.x86.Inv) (execX86PopReg r s) := by
  refine x86Do_inv hs fun x hx => X86State.sound_atOpSize fun w => ?_
  cases h : x.pop w with
  | error e => exact ensures_error
  | ok y => exact ensures_ok (X86State.Sound.congr (hx.pop w y h) rfl rfl rfl)

theorem execX86PopSs_inv : Nexts (fun t => t.x86.Inv) (execX86PopSs s) := by
  refine x86Do_inv hs fun x hx => ?_
  cases h : popSelector .ss x with
  | error e => exact ensures_error
  | ok y => exact ensures_ok (X86State.Sound.inhibit (sound_popSelector hx .ss y h) _)

theorem execX86MovRmSreg_inv (rm : X86RM) (sr : BitVec 3) :
    Nexts (fun t => t.x86.Inv) (execX86MovRmSreg rm sr s) := by
  refine x86Do_inv hs fun x hx => ?_
  cases sregOf sr with
  | none => exact ensures_error
  | some g => exact sound_movSelector hx rm _

theorem execX86MovSregRm_inv (sr : BitVec 3) (rm : X86RM) :
    Nexts (fun t => t.x86.Inv) (execX86MovSregRm sr rm s) := by
  refine x86Do_inv hs fun x hx => ?_
  cases sregOf sr with
  | none => exact ensures_error
  | some g =>
    refine ensures_ite ensures_error ?_
    cases x.readRM 16 rm with
    | error e => exact ensures_error
    | ok v => exact hx.loadSeg g v

end

/-- The bytes in force on an instruction are not among what `Sound` speaks of, so running it with them is as without. -/
theorem x86Run_inv {i : Instr} {s : State} (hs : s.x86.Sound)
    (ih : i.part = .p1 → ∀ s : State, s.x86.Sound → Nexts (fun t => t.x86.Inv) (exec i s)) (p : X86Pfx) :
    Nexts (fun t => t.x86.Inv) (x86Run i (s.withPfx p)) := by
  rw [x86Run_eq]
  split
  · exact ih ‹_› (s.withPfx p) (hs.congr rfl rfl rfl)
  · exact nexts_refused

/-- P1: an instruction, behind any bytes that modify it, ends in the invariant. -/
theorem exec_inv_p1 {i : Instr} (h : i.part = .p1) {s : State} (hs : s.x86.Sound) :
    Nexts (fun t => t.x86.Inv) (exec i s) := by
  induction i generalizing s <;> dsimp only [exec]
  case x86PushRm rm => exact execX86PushRm_inv hs rm
  case x86PushReg | x86PushImm8 | x86PushImm =>
    exact x86Do_inv hs fun x hx => hx.guardPush (X86State.sound_atOpSize fun _ => hx.push _)
  case x86PushCs | x86PushSs | x86PushDs | x86PushEs | x86PushFs | x86PushGs =>
    exact x86Do_inv hs fun x hx => sound_pushSelector hx _
  case x86AddAlImm8 | x86AdcAlImm8 | x86XorAlImm8 =>
    exact x86Do_inv hs fun x hx => sound_aluToAcc hx (fun _ _ _ _ hy => hy.congr rfl rfl rfl) _
  case x86AddAxImm | x86AdcAxImm | x86XorAxImm =>
    exact x86Do_inv hs fun x hx => X86State.sound_atOpSize fun _ =>
      sound_aluToAcc hx (fun _ _ _ _ hy => hy.congr rfl rfl rfl) _
  case x86AddRm8Imm8 | x86AddRm8R8 | x86AdcRm8Imm8 | x86AdcRm8R8 | x86XorRm8Imm8 | x86XorRm8R8 =>
    exact x86Do_inv hs fun x hx => sound_aluToRM hx (fun _ _ _ _ hy => hy.congr rfl rfl rfl) _ _
  case x86AddRmImm | x86AddRmImm8 | x86AddRmR | x86AdcRmImm | x86AdcRmImm8 | x86AdcRmR | x86XorRmImm | x86XorRmImm8 |
      x86XorRmR =>
    exact x86Do_inv hs fun x hx => X86State.sound_atOpSize fun _ =>
      sound_aluToRM hx (fun _ _ _ _ hy => hy.congr rfl rfl rfl) _ _
  case x86AddR8Rm8 | x86AdcR8Rm8 | x86XorR8Rm8 =>
    exact x86Do_inv hs fun x hx => sound_aluToReg hx (fun _ _ _ _ hy => hy.congr rfl rfl rfl) _ _
  case x86AddRRm | x86AdcRRm | x86XorRRm =>
    exact x86Do_inv hs fun x hx => X86State.sound_atOpSize fun _ =>
      sound_aluToReg hx (fun _ _ _ _ hy => hy.congr rfl rfl rfl) _ _
  case x86MovRm8R8 | x86MovRm8Imm8 => exact x86Do_inv hs fun x hx => hx.writeRM _ _
  case x86MovRmR | x86MovRmImm => exact x86Do_inv hs fun x hx => X86State.sound_atOpSize fun _ => hx.writeRM _ _
  case x86MovR8Rm8 => exact x86Do_inv hs fun x hx => sound_movToReg hx _ _
  case x86MovRRm => exact x86Do_inv hs fun x hx => X86State.sound_atOpSize fun _ => sound_movToReg hx _ _
  case x86MovRmSreg rm sr => exact execX86MovRmSreg_inv hs rm sr
  case x86MovSregRm sr rm => exact execX86MovSregRm_inv hs sr rm
  case x86MovAlMoffs => exact x86Do_inv hs fun x hx => sound_movFromMoffs hx _
  case x86MovAxMoffs => exact x86Do_inv hs fun x hx => X86State.sound_atOpSize fun _ => sound_movFromMoffs hx _
  case x86MovMoffsAl => exact x86Do_inv hs fun x hx => hx.writeSeg _ _ _ _
  case x86MovMoffsAx => exact x86Do_inv hs fun x hx => X86State.sound_atOpSize fun _ => hx.writeSeg _ _ _ _
  case x86MovR8Imm8 => exact x86Do_inv hs fun x hx => ensures_ok (hx.congr rfl rfl rfl)
  case x86MovRImm =>
    exact x86Do_inv hs fun x hx => X86State.sound_atOpSize fun _ => ensures_ok (hx.congr rfl rfl rfl)
  case x86Loop | x86Loope | x86Loopne => exact x86Do_inv hs fun x hx => sound_loopBody hx _ _
  case x86ShrdImm | x86ShrdCl =>
    exact x86Do_inv hs fun x hx => X86State.sound_atOpSize fun _ => sound_shrdBody hx _ _ _
  case x86XchgAxR | x86XchgRmR =>
    exact x86Do_inv hs fun x hx => X86State.sound_atOpSize fun _ => sound_xchgBody hx _ _
  case x86XchgRm8R8 => exact x86Do_inv hs fun x hx => sound_xchgBody hx _ _
  case x86PopMem => exact x86Do_inv hs fun x hx => X86State.sound_atOpSize fun _ => sound_popToMem hx _
  case x86PopReg r => exact execX86PopReg_inv hs r
  case x86PopDs | x86PopEs | x86PopFs | x86PopGs => exact x86Do_inv hs fun x hx => sound_popSelector hx _
  case x86PopSs => exact execX86PopSs_inv hs
  case x86Ret | x86RetImm => exact x86Do_inv hs fun x hx => sound_retBody hx _
  case x86OpSize i ih | x86AddrSize i ih | x86SegCs i ih | x86SegSs i ih | x86SegDs i ih | x86SegEs i ih |
      x86SegFs i ih | x86SegGs i ih =>
    exact nexts_ite nexts_refused (x86Run_inv hs (fun h s hs => ih h hs) _)
  case x86RetFar | x86RetFarImm | x86Lock => exact nexts_refused
  all_goals cases h

end Sys2Proof.Machine
end

section
/-! PROOFS, the invariant, continued: P2 to P5. -/

namespace Sys2Proof.Machine

/-! ### Word-aligned addresses -/

theorem aligned_add {a b : Word} (ha : a.extractLsb' 0 2 = 0#2) (hb : b.extractLsb' 0 2 = 0#2) :
    (a + b).extractLsb' 0 2 = 0#2 := by
  rw [low_bits_zero] at *
  rw [BitVec.toNat_add]
  omega

theorem aligned_add_four {a : Word} (ha : a.extractLsb' 0 2 = 0#2) : (a + 4).extractLsb' 0 2 = 0#2 :=
  aligned_add ha (by decide)

theorem aligned_shiftLeft_two (v : Word) : (v <<< 2).extractLsb' 0 2 = 0#2 := by
  rw [low_bits_zero, BitVec.toNat_shiftLeft, Nat.shiftLeft_eq]
  omega

theorem aligned_clear_low_two (v : Word) : (v &&& 0xFFFFFFFC#32).extractLsb' 0 2 = 0#2 := by
  rw [clear_low_two, low_bits_zero, BitVec.toNat_append, Nat.shiftLeft_eq, BitVec.toNat_zero, Nat.or_zero]
  omega

theorem aligned_of_low_bits {v : Word} (h0 : v.getLsbD 0 = false) (h1 : v.getLsbD 1 = false) :
    v.extractLsb' 0 2 = 0#2 := by
  apply BitVec.eq_of_getLsbD_eq
  intro k hk
  rw [BitVec.getLsbD_extractLsb', Nat.zero_add, BitVec.getLsbD_zero]
  obtain rfl | rfl : k = 0 ∨ k = 1 := by omega
  · rw [h0, Bool.and_false]
  · rw [h1, Bool.and_false]

/-! ### P2 -/

@[simp] theorem ArmState.forget_mem (a : ArmState) (l : List (BitVec 4)) : (a.forget l).mem = a.mem := by
  induction l generalizing a with
  | nil => rfl
  | cons n l ih => exact ih _

theorem armReturn_mem (a : ArmState) : (armReturn a).mem = a.mem := a.forget_mem _

theorem ArmState.setNZCV_t (a : ArmState) (n z c v : Bool) : (a.setNZCV n z c v).t = a.t := by
  obtain ⟨-, -, -, -, rest⟩ := a.setNZCV_flags n z c v
  exact rest 5 (by decide)

/-- A branch keeps the invariant where its target is aligned for ARM state. -/
theorem ArmState.inv_setPc {a : ArmState} (hm : Memory.wf top32 a.mem) {v : Word}
    (hv : a.t = false → v.extractLsb' 0 2 = 0#2) : (a.setReg 15 v).Inv := by
  refine ⟨hm, fun ht => ?_⟩
  rw [ArmState.pc, ArmState.reg_setReg, if_pos rfl]
  exact hv ht

theorem ArmState.inv_branchTo {a : ArmState} (hm : Memory.wf top32 a.mem) (v : Word) :
    Ensures ArmState.Inv (a.branchTo v) := by
  unfold ArmState.branchTo
  split
  · exact ensures_ok (ArmState.inv_setPc hm fun _ => ‹_›)
  · exact ensures_error

section
variable {a : ArmState} (ha : a.Inv)
include ha

theorem ArmState.inv_setReg {n : BitVec 4} (hn : n ≠ 15#4) (v : Word) : (a.setReg n v).Inv := by
  refine ⟨ha.1, fun ht => ?_⟩
  rw [ArmState.pc, ArmState.reg_setReg, if_neg (show (15 : BitVec 4) ≠ n from hn.symm)]
  exact ha.2 ht

theorem ArmState.inv_advance : a.advance.Inv :=
  ArmState.inv_setPc ha.1 fun ht => aligned_add_four (ha.2 ht)

theorem ArmState.inv_setResultFlags (r : Word) (c v : Bool) : (a.setResultFlags r c v).Inv :=
  ⟨ha.1, fun ht => ha.2 (a.setNZCV_t _ _ _ _ ▸ ht)⟩

/-- A data-processing instruction: a result that becomes the PC is checked, any other leaves the PC to advance. -/
theorem inv_armResult (s : Bool) (rd : BitVec 4) (r : Word) (c : Bool) (v : ArmState → Bool) :
    Ensures ArmState.Inv (armResult s rd r (fun b => b.setResultFlags r c (v b)) a) := by
  unfold armResult
  by_cases hrd : rd = 15#4
  · rw [if_pos hrd]
    refine ensures_ite (ensures_ite ?_ ensures_error) (ArmState.inv_branchTo ha.1 r)
    exact ArmState.inv_branchTo (armReturn_mem a ▸ ha.1) r
  · rw [if_neg hrd]
    refine ensures_ok (ArmState.inv_advance (ArmState.inv_setReg ?_ hrd r))
    split
    · exact ArmState.inv_setResultFlags ha r c (v a)
    · exact ha

theorem inv_armMov (s : Bool) (rd : BitVec 4) (o : Word × Bool) : Ensures ArmState.Inv (armMov s rd o a) :=
  inv_armResult ha s rd _ _ ArmState.v

theorem inv_armOrr (s : Bool) (rn rd : BitVec 4) (o : Word × Bool) : Ensures ArmState.Inv (armOrr s rn rd o a) :=
  inv_armResult ha s rd _ _ ArmState.v

theorem inv_armAdd (s : Bool) (rn rd : BitVec 4) (o : Word × Bool) : Ensures ArmState.Inv (armAdd s rn rd o a) :=
  inv_armResult ha s rd _ _ fun _ => _

theorem inv_armAdc (s : Bool) (rn rd : BitVec 4) (o : Word × Bool) : Ensures ArmState.Inv (armAdc s rn rd o a) :=
  inv_armResult ha s rd _ _ fun _ => _

theorem inv_armSub (s : Bool) (rn rd : BitVec 4) (o : Word × Bool) : Ensures ArmState.Inv (armSub s rn rd o a) :=
  inv_armResult ha s rd _ _ fun _ => _

/-- LDR: the base that is written back is not R15, as that form is refused. -/
theorem inv_armLdr (mode : ArmIndex) (up : Bool) (rn rd : BitVec 4) (off : Word) :
    Ensures ArmState.Inv (armLdr mode up rn rd off a) := by
  unfold armLdr
  dsimp only
  refine ensures_ite ensures_error ?_
  by_cases hpc : ldrWritesBack mode = true ∧ rn = 15#4
  · rw [if_pos hpc]
    exact ensures_error
  rw [if_neg hpc]
  have back (v : Word) : (if ldrWritesBack mode = true then a.setReg rn v else a).Inv := by
    split
    · exact ArmState.inv_setReg ha (fun e => hpc ⟨‹_›, e⟩) v
    · exact ha
  refine ensures_ite ensures_error (ensures_ite ensures_error ?_)
  split
  · exact ArmState.inv_branchTo (back _).1 _
  · exact ensures_ok (ArmState.inv_advance (ArmState.inv_setReg (back _) ‹_› _))

theorem inv_armBranch (link : Bool) (off : BitVec 24) : Ensures ArmState.Inv (armBranch link off a) := by
  have target (ht : a.t = false) : (a.pc + 8#32 + (off.signExtend 32 <<< 2)).extractLsb' 0 2 = 0#2 :=
    aligned_add (aligned_add (ha.2 ht) (by decide)) (aligned_shiftLeft_two _)
  refine ensures_ite ensures_error (ensures_ok (ArmState.inv_setPc ?_ ?_))
  · cases link <;> exact ha.1
  · cases link <;> exact target

/-- BX: where it stays in ARM state, bit 0 of the target is clear, and so is bit 1, or it is refused. -/
theorem inv_armBx (rm : BitVec 4) : Ensures ArmState.Inv (armBx rm a) := by
  unfold armBx
  dsimp only
  refine ensures_ite ensures_error ?_
  by_cases hbit : ¬ (a.readReg rm).getLsbD 0 = true ∧ (a.readReg rm).getLsbD 1 = true
  · rw [if_pos hbit]
    exact ensures_error
  rw [if_neg hbit]
  refine ensures_ok (ArmState.inv_setPc ?_ fun ht => ?_)
  · exact ha.1
  rw [ArmState.t, getLsbD_putBit _ _ _ _ (by decide), if_pos rfl] at ht
  have bit1 : (a.readReg rm).getLsbD 1 = false :=
    Bool.eq_false_iff.2 fun e => hbit ⟨Bool.eq_false_iff.1 ht, e⟩
  exact aligned_of_low_bits (by rw [BitVec.getLsbD_and, ht, Bool.false_and])
    (by rw [BitVec.getLsbD_and, bit1, Bool.false_and])

end

theorem armDo_inv {c : ArmCond} {body : ArmState → Body ArmState} {s : State} (hs : s.arm.Inv)
    (h : Ensures ArmState.Inv (body s.arm)) : Nexts (fun t => t.arm.Inv) (armDo c body s) :=
  nexts_ite (nexts_finish_of_ensures h fun _ hq => hq) (nexts_next (ArmState.inv_advance hs))

theorem exec_inv_p2 {i : Instr} (h : i.part = .p2) {s : State} (hs : s.arm.Inv) :
    Nexts (fun t => t.arm.Inv) (exec i s) := by
  cases i <;> dsimp only [exec]
  case armSubImm | armSubLsl | armSubLsr => exact armDo_inv hs (inv_armSub hs _ _ _ _)
  case armAddImm | armAddLsl | armAddLsr => exact armDo_inv hs (inv_armAdd hs _ _ _ _)
  case armAdcImm | armAdcLsl | armAdcLsr => exact armDo_inv hs (inv_armAdc hs _ _ _ _)
  case armOrrImm | armOrrLsl | armOrrLsr => exact armDo_inv hs (inv_armOrr hs _ _ _ _)
  case armMovImm | armMovLsl | armMovLsr => exact armDo_inv hs (inv_armMov hs _ _ _)
  case armLdrImm | armLdrReg => exact armDo_inv hs (inv_armLdr hs _ _ _ _ _)
  case armB | armBl => exact armDo_inv hs (inv_armBranch hs _ _)
  case armBx => exact armDo_inv hs (inv_armBx hs _)
  all_goals cases h

/-! ### P3 -/

theorem ppcDo_inv {body : PpcState → Body PpcState} {s : State} (h : Ensures PpcState.Inv (body s.ppc)) :
    Nexts (fun t => t.ppc.Inv) (ppcDo body s) :=
  nexts_finish_of_ensures h fun _ hq => hq

section
variable {p : PpcState} (hp : p.Inv)
include hp

/-- An instruction that is no branch keeps memory and moves CIA on. -/
theorem PpcState.inv_advance {q : PpcState} (hm : q.mem = p.mem) (hc : q.cia = p.cia) : q.advance.Inv :=
  ⟨hm ▸ hp.1, aligned_add_four (hc ▸ hp.2)⟩

theorem inv_ppcSum (rD : BitVec 5) (a b : Word) (c oe rc : Bool) : Ensures PpcState.Inv (ppcSum rD a b c oe rc p) :=
  ensures_ok (PpcState.inv_advance hp (by simp) (by simp))

theorem inv_ppcRotated (rA : BitVec 5) (r : Word) (rc : Bool) : Ensures PpcState.Inv (ppcRotated rA r rc p) :=
  ensures_ok (PpcState.inv_advance hp (by simp) (by simp))

theorem inv_ppcMtsprBody (n : BitVec 10) (rS : BitVec 5) : Ensures PpcState.Inv (ppcMtsprBody n rS p) := by
  have moved {q : PpcState} (hm : q.mem = p.mem) (hc : q.cia = p.cia) :
      Ensures PpcState.Inv (.ok q.advance : Body PpcState) := ensures_ok (PpcState.inv_advance hp hm hc)
  refine ensures_ite (moved rfl rfl) (ensures_ite (moved rfl rfl) (ensures_ite (moved rfl rfl)
    (ensures_ite ?_ ensures_error)))
  cases PpcParams.mtsprOther p.params n <;> exact ensures_error

theorem inv_ppcBranch (bo bi : BitVec 5) (lk : Bool) {target : Word} (ht : target.extractLsb' 0 2 = 0#2) :
    Ensures PpcState.Inv (ppcBranch bo bi lk target p) := by
  refine ensures_ok ⟨hp.1, ?_⟩
  dsimp only
  split
  · exact ht
  · exact aligned_add_four hp.2

theorem PpcState.aligned_bcTarget (bd : BitVec 14) (aa : Bool) : (p.bcTarget bd aa).extractLsb' 0 2 = 0#2 := by
  cases aa
  · exact aligned_add hp.2 (aligned_shiftLeft_two _)
  · exact aligned_shiftLeft_two _

end

theorem exec_inv_p3 {i : Instr} (h : i.part = .p3) {s : State} (hs : s.ppc.Inv) :
    Nexts (fun t => t.ppc.Inv) (exec i s) := by
  cases i <;> dsimp only [exec]
  case ppcAddi | ppcLi => exact ppcDo_inv (ensures_ok (PpcState.inv_advance hs rfl rfl))
  case ppcBc => exact ppcDo_inv (inv_ppcBranch hs _ _ _ (PpcState.aligned_bcTarget hs _ _))
  case ppcBclr | ppcBlr => exact ppcDo_inv (inv_ppcBranch hs _ _ _ (aligned_clear_low_two _))
  case ppcRlwimi | ppcRlwinm => exact ppcDo_inv (inv_ppcRotated hs _ _ _)
  case ppcAddc | ppcAddze => exact ppcDo_inv (inv_ppcSum hs _ _ _ _ _ _)
  case ppcMtspr | ppcMtxer | ppcMtlr | ppcMtctr => exact ppcDo_inv (inv_ppcMtsprBody hs _ _)
  case ppcLwzu =>
    exact ppcDo_inv
      (ensures_ite ensures_error (ensures_ite ensures_error (ensures_ok (PpcState.inv_advance hs rfl rfl))))
  all_goals cases h

/-! ### P4 -/

/-- An instruction that is no control transfer: the PC becomes nPC. -/
theorem SparcState.inv_advance {p : SparcState} (hp : p.Inv) : p.advance.Inv := by
  obtain ⟨hm, -, hnpc⟩ := hp
  exact ⟨hm, hnpc, aligned_add_four hnpc⟩

section
variable {p : SparcState} (hp : p.Inv)
include hp

theorem SparcState.inv_setReg (n : BitVec 5) (v : Word) : (p.setReg n v).Inv := by
  rw [SparcState.Inv, p.setReg_mem, p.setReg_pc, p.setReg_npc]
  exact hp

theorem SparcState.inv_transfer {npc : Word} (hn : npc.extractLsb' 0 2 = 0#2) (annul : Bool) :
    (p.transfer npc annul).Inv := by
  obtain ⟨hm, -, hnpc⟩ := hp
  exact ⟨hm, hnpc, hn⟩

theorem SparcState.aligned_biccNpc (c : SparcCond) (disp : BitVec 22) :
    (p.biccNpc c disp).extractLsb' 0 2 = 0#2 := by
  obtain ⟨-, hpc, hnpc⟩ := hp
  unfold SparcState.biccNpc
  split
  · exact aligned_add hpc (aligned_shiftLeft_two _)
  · exact aligned_add_four hnpc

theorem inv_sparcJmplBody (rs1 : BitVec 5) (o : SparcOp2) (rd : BitVec 5) :
    Ensures SparcState.Inv (sparcJmplBody rs1 o rd p) := by
  unfold sparcJmplBody
  dsimp only
  split
  · exact ensures_error
  · exact ensures_ok (SparcState.inv_transfer (SparcState.inv_setReg hp rd p.pc) (not_not.1 ‹_›) false)

end

theorem sparcDo_inv {body : SparcState → Body SparcState} {s : State} (h : Ensures SparcState.Inv (body s.sparc)) :
    Nexts (fun t => t.sparc.Inv) (sparcDo body s) :=
  nexts_finish_of_ensures h fun _ hq => SparcState.inv_advance hq

theorem sparcTransferDo_inv {body : SparcState → Body SparcState} {s : State}
    (h : Ensures SparcState.Inv (body s.sparc)) : Nexts (fun t => t.sparc.Inv) (sparcTransferDo body s) :=
  nexts_ite nexts_refused (nexts_finish_of_ensures h fun _ hq => hq)

theorem exec_inv_p4 {i : Instr} (h : i.part = .p4) {s : State} (hs : s.sparc.Inv) :
    Nexts (fun t => t.sparc.Inv) (exec i s) := by
  cases i <;> dsimp only [exec]
  case sparcNop => exact sparcDo_inv (ensures_ok hs)
  case sparcSethi | sparcAdd | sparcOr | sparcAddx | sparcAddcc | sparcSubcc | sparcSll | sparcSrl | sparcCmp |
      sparcMov =>
    exact sparcDo_inv (ensures_ok (SparcState.inv_setReg hs _ _))
  case sparcLd =>
    exact sparcDo_inv (ensures_ite ensures_error
      (ensures_ite ensures_error (ensures_ok (SparcState.inv_setReg hs _ _))))
  case sparcBicc =>
    exact sparcTransferDo_inv (ensures_ok (SparcState.inv_transfer hs (SparcState.aligned_biccNpc hs _ _) _))
  case sparcJmpl | sparcJmp | sparcCall | sparcRet | sparcRetl =>
    exact sparcTransferDo_inv (inv_sparcJmplBody hs _ _ _)
  all_goals cases h

/-! ### P5 -/

theorem MipsState.inv_setReg {p : MipsState} (hp : p.Inv) (n : BitVec 5) (v : Word) : (p.setReg n v).Inv := by
  rw [MipsState.Inv, p.setReg_mem, p.setReg_params, p.setReg_isaMode, p.setReg_delayed]
  exact hp

/-- The end of a delay slot takes the pending ISAMode, of which there is none without a second instruction set. -/
theorem MipsState.inv_advance {p : MipsState} (hp : p.Inv) : p.advance.Inv := by
  obtain ⟨hm, hisa⟩ := hp
  unfold MipsState.advance
  cases hd : p.delayed with
  | none => exact ⟨hm, fun c => ⟨(hisa c).1, by simp⟩⟩
  | some d =>
    refine ⟨hm, fun c => ?_⟩
    obtain ⟨hmode, hpending⟩ := hisa c
    have hnone : d.isa = none := by simpa [hd] using hpending
    exact ⟨by simp [hnone, hmode], rfl⟩

theorem mipsDo_inv {body : MipsState → Body MipsState} {s : State} (h : Ensures MipsState.Inv (body s.mips)) :
    Nexts (fun t => t.mips.Inv) (mipsDo body s) :=
  nexts_finish_of_ensures h fun _ hq => MipsState.inv_advance hq

/-- A control transfer that leaves no ISAMode pending where there is one instruction set. -/
theorem mipsTransferDo_inv {d : MipsState → MipsPending} {s : State} (hs : s.mips.Inv)
    (h : s.mips.params.config3ISA = 0 ∧ s.mips.params.config1CA = 0 → (d s.mips).isa = none) :
    Nexts (fun t => t.mips.Inv) (mipsTransferDo (fun p => .ok (d p)) s) := by
  obtain ⟨hm, hisa⟩ := hs
  refine nexts_ite (nexts_ite nexts_takeException nexts_refused) (nexts_next ⟨hm, fun c => ⟨(hisa c).1, ?_⟩⟩)
  simp [h c]

theorem MipsState.jrPending_isa {p : MipsState} (rs : BitVec 5)
    (h : p.params.config3ISA = 0 ∧ p.params.config1CA = 0) : (p.jrPending rs).isa = none := by
  unfold MipsState.jrPending
  rw [if_pos h]

theorem execMipsLw_inv (rt : BitVec 5) (off : BitVec 16) (base : BitVec 5) {s : State} (hs : s.mips.Inv) :
    Nexts (fun t => t.mips.Inv) (execMipsLw rt off base s) := by
  refine mipsDo_inv ?_
  cases s.mips.loadWord (off.signExtend 32 + s.mips.reg base) with
  | error e => exact ensures_error
  | ok v => exact ensures_ok (MipsState.inv_setReg hs rt v)

theorem exec_inv_p5 {i : Instr} (h : i.part = .p5) {s : State} (hs : s.mips.Inv) :
    Nexts (fun t => t.mips.Inv) (exec i s) := by
  cases i <;> dsimp only [exec]
  case mipsAddiu | mipsOri | mipsAddu | mipsSltu | mipsMove | mipsLiAddiu | mipsLiOri =>
    exact mipsDo_inv (ensures_ok (MipsState.inv_setReg hs _ _))
  case mipsLw rt off base => exact execMipsLw_inv rt off base hs
  case mipsExt | mipsIns =>
    exact mipsDo_inv (ensures_ite ensures_error
      (ensures_ite ensures_error (ensures_ok (MipsState.inv_setReg hs _ _))))
  case mipsBne => exact mipsTransferDo_inv hs fun _ => rfl
  case mipsJrPre => exact nexts_ite nexts_takeException (mipsTransferDo_inv hs (MipsState.jrPending_isa _))
  case mipsJrR6 => exact nexts_ite (mipsTransferDo_inv hs (MipsState.jrPending_isa _)) nexts_refused
  all_goals cases h

end Sys2Proof.Machine
end

section
/-! PROOFS, the invariant, continued: P6, and the step. -/

namespace Sys2Proof.Machine

/-! ### P6: the program counter -/

@[simp] theorem RvState.toNat_cut (p : RvState) (v : DWord) : (p.cut v).toNat = v.toNat % 2 ^ p.xlen := by
  have := v.isLt
  unfold RvState.cut RvState.xlen
  split
  · rw [Nat.mod_eq_of_lt this]
  · simp only [BitVec.toNat_setWidth]
    omega

theorem RvState.targetOk_cut {p : RvState} {v : DWord} (h : p.targetOk v = true) : p.targetOk (p.cut v) = true := by
  rw [RvState.targetOk_iff] at *
  rw [RvState.toNat_cut]
  rcases p.xlen_cases with hx | hx <;> rw [hx] <;> split_ifs at h ⊢ <;> omega

theorem RvState.targetOk_add {p : RvState} {v w : DWord} (hv : p.targetOk v = true) (hw : p.targetOk w = true) :
    p.targetOk (v + w) = true := by
  rw [RvState.targetOk_iff] at *
  rw [BitVec.toNat_add]
  split_ifs at hv hw ⊢ <;> omega

theorem RvState.targetOk_four (p : RvState) : p.targetOk 4 = true := by
  rw [RvState.targetOk_iff]
  split <;> rfl

theorem RvState.targetOk_two {p : RvState} (h : p.params.extC = true) : p.targetOk 2 = true := by
  rw [RvState.targetOk_iff, if_pos h]
  rfl

/-! ### P6: the operations -/

theorem RvState.toNat_lt_of_rv32 {p : RvState} (v : BitVec p.xlen) (h : p.params.rv64 = false) : v.toNat < 2 ^ 32 := by
  have hx : p.xlen = 32 := by rw [RvState.xlen, h]; rfl
  exact hx ▸ v.isLt

section
variable {p : RvState} (hp : p.Inv)
include hp

/-- With XLEN = 32 a register gets a value of 32 bits. -/
theorem RvState.inv_setReg (i : BitVec 5) (v : BitVec n) (hv : p.params.rv64 = false → v.toNat < 2 ^ 32) :
    (p.setReg i v).Inv := by
  obtain ⟨hm, hstored, hpc, hcut, hregs, hres⟩ := hp
  unfold RvState.setReg
  split
  · exact ⟨hm, hstored, hpc, hcut, hregs, hres⟩
  · refine ⟨hm, hstored, hpc, hcut, fun h32 k => ?_, hres⟩
    dsimp only
    rw [getElem_set_bv]
    split
    · rw [BitVec.toNat_setWidth]
      exact Nat.lt_of_le_of_lt (Nat.mod_le _ _) (hv h32)
    · exact hregs h32 k

theorem RvState.inv_advance {len : DWord} (hlen : p.targetOk len = true) : (p.advance len).Inv := by
  obtain ⟨hm, hstored, hpc, -, hregs, hres⟩ := hp
  exact ⟨hm, hstored, RvState.targetOk_cut (RvState.targetOk_add hpc hlen), p.cut_cut _, hregs, hres⟩

theorem RvState.inv_jump (v : DWord) : Ensures RvState.Inv (p.jump v) := by
  obtain ⟨hm, hstored, -, -, hregs, hres⟩ := hp
  unfold RvState.jump
  split
  · exact ensures_ok ⟨hm, hstored, RvState.targetOk_cut ‹_›, p.cut_cut v, hregs, hres⟩
  · exact ensures_error

theorem RvState.inv_put (a : Nat) (v : BitVec w) : (p.put a v).Inv := by
  obtain ⟨hm, hstored, rest⟩ := hp
  exact ⟨Memory.wf_write .little p.top (Nat.two_pow_pos _) p.mem a v hm,
    StoredSet.wf_addRange p.top (w / 8) p.stored a hstored, rest⟩

/-- A reservation that an instruction sets is 4 or 8 aligned bytes; none may be left. -/
theorem RvState.inv_reserve {r : Option RvReservation}
    (hr : r.all (fun r => (r.size == 4 || r.size == 8) && r.addr % r.size == 0) = true) :
    RvState.Inv { p with reservation := r } := by
  obtain ⟨hm, hstored, hpc, hcut, hregs, -⟩ := hp
  exact ⟨hm, hstored, hpc, hcut, hregs, hr⟩

theorem RvState.inv_afterStore (a n : Nat) : (p.afterStore a n).Inv := by
  obtain ⟨h, -⟩ | ⟨r, rfl | rfl, h⟩ := p.afterStore_cases a n
  · rw [h]
    exact hp
  · rw [h]
    exact hp
  · rw [h]
    exact RvState.inv_reserve (r := none) hp rfl

theorem RvState.inv_store (a : Nat) (v : BitVec w) : Ensures RvState.Inv (p.store a v) :=
  ensures_ite ensures_error
    (ensures_ite ensures_error (ensures_ok (RvState.inv_afterStore (RvState.inv_put hp a v) a (w / 8))))

theorem RvState.inv_scSucceeds (a : Nat) : (p.scSucceeds a).2.Inv := by
  unfold RvState.scSucceeds
  split
  · exact hp
  · split_ifs <;> exact hp

/-! ### P6: the bodies -/

theorem inv_rvWrite (rd : BitVec 5) (v : BitVec n) (hv : p.params.rv64 = false → v.toNat < 2 ^ 32) :
    Ensures RvState.Inv (rvWrite rd v p) :=
  ensures_ok (RvState.inv_setReg hp rd v hv)

theorem inv_rvWrite_xlen (rd : BitVec 5) (v : BitVec p.xlen) : Ensures RvState.Inv (rvWrite rd v p) :=
  inv_rvWrite hp rd v (RvState.toNat_lt_of_rv32 v)

theorem inv_rvWriteWord (h64 : p.params.rv64 = true) (rd : BitVec 5) (v : Word) :
    Ensures RvState.Inv (rvWriteWord rd v p) :=
  inv_rvWrite hp rd _ fun h32 => absurd (h64.symm.trans h32) (by decide)

theorem inv_rvLoad (w : Nat) (ext : (n : Nat) → BitVec w → BitVec n) (rd : BitVec 5) (off : BitVec 12)
    (rs1 : BitVec 5) : Ensures RvState.Inv (rvLoad w ext rd off rs1 p) := by
  unfold rvLoad
  cases p.load w (p.ea rs1 off) with
  | error e => exact ensures_error
  | ok v => exact inv_rvWrite_xlen hp rd _

theorem inv_rvBneBody (rs1 rs2 : BitVec 5) (off : BitVec 12) : Ensures RvState.Inv (rvBneBody rs1 rs2 off p) :=
  ensures_ite (RvState.inv_jump hp _) (ensures_ok (RvState.inv_advance hp p.targetOk_four))

theorem inv_rvLoadReserved {w : Nat} (hw : w = 32 ∨ w = 64) (rd rs1 : BitVec 5) :
    Ensures RvState.Inv (rvLoadReserved w rd rs1 p) := by
  unfold rvLoadReserved rvAligned
  split
  case isFalse => exact ensures_error
  case isTrue haligned =>
    cases p.load w (p.addr rs1) with
    | error e => exact ensures_error
    | ok v =>
      refine ensures_ok (RvState.inv_reserve (RvState.inv_setReg hp rd _ (RvState.toNat_lt_of_rv32 _)) ?_)
      rcases hw with rfl | rfl <;> simpa using haligned

theorem inv_rvScDBody (h64 : p.params.rv64 = true) (rd rs2 rs1 : BitVec 5) :
    Ensures RvState.Inv (rvScDBody rd rs2 rs1 p) := by
  have hq := RvState.inv_scSucceeds hp (p.addr rs1)
  have wide : (p.scSucceeds (p.addr rs1)).2.params.rv64 ≠ false := by
    rw [p.scSucceeds_params, h64]
    decide
  refine ensures_ite (ensures_ite ensures_error
    (ensures_ite (ensures_ite ensures_error (ensures_ok ?_)) (ensures_ok ?_))) ensures_error
  · have stored := RvState.inv_put hq (p.addr rs1) (p.reg 64 rs2)
    exact RvState.inv_reserve (r := none) (RvState.inv_setReg stored rd 0#64 fun h32 => absurd h32 wide) rfl
  · have drawn : ((p.scSucceeds (p.addr rs1)).2.draw 64).2.Inv := hq
    exact RvState.inv_reserve (r := none) (RvState.inv_setReg drawn rd _ fun h32 => absurd h32 wide) rfl

theorem inv_rvAmoaddDBody (h64 : p.params.rv64 = true) (rd rs2 rs1 : BitVec 5) :
    Ensures RvState.Inv (rvAmoaddDBody rd rs2 rs1 p) := by
  refine ensures_ite ?_ ensures_error
  cases p.load 64 (p.addr rs1) with
  | error e => exact ensures_error
  | ok t =>
    dsimp only
    cases h : p.store (p.addr rs1) (t + p.reg 64 rs2) with
    | error e => exact ensures_error
    | ok q =>
      have wide : q.params.rv64 ≠ false := by
        rw [p.params_store _ _ q h, h64]
        decide
      exact ensures_ok (RvState.inv_setReg (RvState.inv_store hp _ _ q h) rd t fun h32 => absurd h32 wide)

theorem inv_rvReturnMachine : Ensures RvState.Inv (rvReturnMachine p) := by
  refine ensures_ite ensures_error ?_
  cases p.modeOf p.mpp with
  | none => exact ensures_error
  | some m =>
    dsimp only
    cases h : p.jump p.mepc with
    | error e => exact ensures_error
    | ok q => exact ensures_ok (RvState.inv_jump hp p.mepc q h)

theorem inv_rvReturnSupervisor : Ensures RvState.Inv (rvReturnSupervisor p) := by
  refine ensures_ite ensures_error ?_
  cases h : p.jump p.sepc with
  | error e => exact ensures_error
  | ok q => exact ensures_ok (RvState.inv_jump hp p.sepc q h)

end

/-! ### P6: the instructions -/

theorem rvDo_inv {present : RvParams → Bool} {body : RvState → Body RvState} {s : State}
    (h : present s.rv.params = true → Ensures RvState.Inv (body s.rv)) :
    Nexts (fun t => t.rv.Inv) (rvDo present 4 body s) := by
  unfold rvDo
  split
  · exact nexts_finish_of_ensures (h ‹_›) fun q hq => RvState.inv_advance hq q.targetOk_four
  · exact nexts_refused

/-- A compressed instruction exists with C only, and then two bytes on is a legal place. -/
theorem rvDo_inv_compressed {s : State} (hs : s.rv.Inv) (rd : BitVec 5) (f : RvState → BitVec s.rv.xlen) :
    Nexts (fun t => t.rv.Inv) (rvDo rvC 2 (fun p => rvWrite rd (f p) p) s) := by
  unfold rvDo
  split
  · have hq := RvState.inv_setReg hs rd (f s.rv) (RvState.toNat_lt_of_rv32 _)
    refine nexts_next (RvState.inv_advance hq (RvState.targetOk_two ?_))
    rw [RvState.setReg_params]
    exact ‹rvC s.rv.params = true›
  · exact nexts_refused

theorem rvJumpDo_inv {present : RvParams → Bool} {body : RvState → Body RvState} {s : State}
    (h : Ensures RvState.Inv (body s.rv)) : Nexts (fun t => t.rv.Inv) (rvJumpDo present body s) :=
  nexts_ite (nexts_finish_of_ensures h fun _ hq => hq) nexts_refused

theorem execRvRdcycle_inv (rd : BitVec 5) {s : State} (hs : s.rv.Inv) :
    Nexts (fun t => t.rv.Inv) (execRvRdcycle rd s) := by
  refine rvDo_inv fun _ => ?_
  have counted (d : Nat) (c : DWord) : RvState.Inv { s.rv with draws := d, cycle := c } := hs
  exact inv_rvWrite (counted _ _) rd _ (RvState.toNat_lt_of_rv32 (p := s.rv) _)

theorem rv64_of_rv64M {c : RvParams} (h : rv64M c = true) : c.rv64 = true := ((Bool.and_eq_true _ _).mp h).1

theorem rv64_of_rv64A {c : RvParams} (h : rv64A c = true) : c.rv64 = true := ((Bool.and_eq_true _ _).mp h).1

theorem exec_inv_p6 {i : Instr} (h : i.part = .p6) {s : State} (hs : s.rv.Inv) :
    Nexts (fun t => t.rv.Inv) (exec i s) := by
  cases i <;> dsimp only [exec]
  case rvLh | rvLw | rvLd | rvLhu | rvLwu => exact rvDo_inv fun _ => inv_rvLoad hs _ _ _ _ _
  case rvSb | rvSh | rvSw => exact rvDo_inv fun _ => RvState.inv_store hs _ _
  case rvSlli | rvSrli => exact rvDo_inv fun _ => ensures_ite (inv_rvWrite_xlen hs _ _) ensures_error
  case rvSlliw | rvSrliw => exact rvDo_inv fun h64 => ensures_ite (inv_rvWriteWord hs h64 _ _) ensures_error
  case rvRemw | rvRemuw =>
    exact rvDo_inv fun hM => ensures_ite ensures_error (inv_rvWriteWord hs (rv64_of_rv64M hM) _ _)
  case rvAddi | rvSlti | rvSltiu | rvOri | rvAdd | rvSll | rvSlt | rvSltu | rvSrl | rvOr | rvLui | rvNeg | rvNot |
      rvNop | rvLi =>
    exact rvDo_inv fun _ => inv_rvWrite_xlen hs _ _
  case rvAddiw | rvAddw | rvSllw | rvSraw | rvNegw => exact rvDo_inv fun h64 => inv_rvWriteWord hs h64 _ _
  case rvCAdd | rvCAddi | rvCAddi16sp | rvCAddi4spn => exact rvDo_inv_compressed hs _ fun _ => _
  case rvRdcycle => exact execRvRdcycle_inv _ hs
  case rvLrW => exact rvDo_inv fun _ => inv_rvLoadReserved hs (.inl rfl) _ _
  case rvLrD => exact rvDo_inv fun _ => inv_rvLoadReserved hs (.inr rfl) _ _
  case rvScD => exact rvDo_inv fun hA => inv_rvScDBody hs (rv64_of_rv64A hA) _ _ _
  case rvAmoaddD => exact rvDo_inv fun hA => inv_rvAmoaddDBody hs (rv64_of_rv64A hA) _ _ _
  case rvBne | rvBnez => exact rvJumpDo_inv (inv_rvBneBody hs _ _ _)
  case rvMret => exact rvJumpDo_inv (inv_rvReturnMachine hs)
  case rvSret => exact rvJumpDo_inv (inv_rvReturnSupervisor hs)
  case rvRet => exact rvJumpDo_inv (RvState.inv_jump hs _)
  all_goals cases h

/-! ### The step -/

/-- The invariant of one part. -/
def State.PartInv (t : State) : Part → Prop
  | .p1 => t.x86.Inv
  | .p2 => t.arm.Inv
  | .p3 => t.ppc.Inv
  | .p4 => t.sparc.Inv
  | .p5 => t.mips.Inv
  | .p6 => t.rv.Inv

/-- An instruction keeps the invariant of its part. -/
theorem exec_partInv (i : Instr) {s : State} (hs : s.Inv) : Nexts (fun t => t.PartInv i.part) (exec i s) := by
  obtain ⟨hx86, harm, hppc, hsparc, hmips, hrv⟩ := hs
  cases h : i.part with
  | p1 => exact exec_inv_p1 h (s.x86.inv_iff.1 hx86).1
  | p2 => exact exec_inv_p2 h harm
  | p3 => exact exec_inv_p3 h hppc
  | p4 => exact exec_inv_p4 h hsparc
  | p5 => exact exec_inv_p5 h hmips
  | p6 => exact exec_inv_p6 h hrv

theorem beforeFetch_partInv {s : State} (hs : s.Inv) {r : Result} (h : beforeFetch s = some r) :
    Nexts (fun t => t.PartInv s.part) r := by
  obtain ⟨-, -, -, hsparc, -⟩ := hs
  unfold beforeFetch at h
  split at h
  case h_1 =>
    split at h <;> cases h
    exact fun _ e => nomatch e
  case h_2 hp =>
    split at h <;> cases h
    rw [hp]
    exact nexts_next (SparcState.inv_advance hsparc)
  case h_3 => cases h

theorem step_partInv {s : State} (hs : s.Inv) : Nexts (fun t => t.PartInv s.part) (step s) := by
  unfold step
  cases hb : beforeFetch s with
  | some r => exact beforeFetch_partInv hs hb
  | none =>
    dsimp only
    cases hf : fetch s with
    | ok i => exact part_fetch s i hf ▸ exec_partInv i hs
    | error e => exact nexts_finish_of_ensures (Q := fun t => t.PartInv s.part) ensures_error fun _ hq => hq

/-- Settles O7: the part that runs keeps its invariant, instruction by instruction, and a step leaves every other part
as it was. -/
theorem stepKeepsInvariant : Obligations.StepKeepsInvariant := by
  unfold Obligations.StepKeepsInvariant
  intro s t hs h
  have changes := step_changesOnly s t h
  have kept := step_partInv hs t h
  obtain ⟨hx86, harm, hppc, hsparc, hmips, hrv⟩ := hs
  cases hp : s.part <;> rw [hp] at changes kept <;> obtain ⟨y, rfl, -⟩ := changes
  case p1 => exact ⟨kept, harm, hppc, hsparc, hmips, hrv⟩
  case p2 => exact ⟨hx86, kept, hppc, hsparc, hmips, hrv⟩
  case p3 => exact ⟨hx86, harm, kept, hsparc, hmips, hrv⟩
  case p4 => exact ⟨hx86, harm, hppc, kept, hmips, hrv⟩
  case p5 => exact ⟨hx86, harm, hppc, hsparc, kept, hrv⟩
  case p6 => exact ⟨hx86, harm, hppc, hsparc, hmips, kept⟩

end Sys2Proof.Machine
end

section
/-! PROOFS, P1: the views of the general registers and the stack pointer (spec/10_state.md R20 to R22). -/

namespace Sys2Proof.Machine

/-- Settles O12: the places of the views are those of `regHome`, which a write reads back from and keeps to. -/
theorem x86RegisterViews : Obligations.X86RegisterViews := by
  unfold Obligations.X86RegisterViews
  intro x n
  have high : n.getLsbD 2 = decide (4 ≤ n.toNat) := by revert n; decide
  have written {w : Nat} (hw : IsWidth w) (v : BitVec w) :
      (x.writeReg n v).readReg w n = v ∧ X86State.KeepsRegs [(w, n)] x (x.writeReg n v) :=
    ⟨x.readReg_writeReg n v hw, x.keepsRegs_writeReg n v⟩
  refine ⟨BitVec.extractLsb'_eq_self, rfl, fun hlow => ?_, fun hhigh => ?_, written (by decide), written (by decide),
    written (by decide)⟩
  · have home : regHome 8 n = (n, 0) := if_neg fun ⟨_, h⟩ => by
      rw [high, decide_eq_true_eq] at h
      omega
    rw [X86State.readReg, home]
  · have home : regHome 8 n = (n - 4#3, 8) := if_pos ⟨rfl, high.trans (decide_eq_true hhigh)⟩
    rw [X86State.readReg, home]
    rfl

/-- Settles O13: a stack pointer computed from the stack pointer fits the register that holds it. -/
theorem x86StackPointer : Obligations.X86StackPointer := by
  unfold Obligations.X86StackPointer
  intro x d
  refine ⟨fun hbig => ?_, fun hsmall => ?_, x.topOfStack_setSp_stackUp d, x.keepsRegs_setSp _⟩
  · have wide : x.stack32 = true := hbig
    exact ⟨by rw [X86State.topOfStack, if_pos wide], by rw [X86State.stackUp, if_pos wide]⟩
  · have narrow : ¬ x.stack32 = true := Bool.eq_false_iff.1 hsmall
    refine ⟨by rw [X86State.topOfStack, if_neg narrow]; rfl, ?_⟩
    change _ = ((x.gpr32 esp).toNat + d.toNat) % 2 ^ 16
    rw [X86State.stackUp, if_neg narrow]
    simp only [BitVec.toNat_setWidth, BitVec.toNat_add, BitVec.extractLsb'_toNat, Nat.shiftRight_zero]
    omega

end Sys2Proof.Machine
end

section
/-! PROOFS, P2: data processing that writes R15 (spec/10_state.md R32, R34, R35; spec/41_arm.md R336), and the branches
(R355 to R358). -/

namespace Sys2Proof.Machine

/-! ### The return from exception -/

/-- A third operand of 0 or 1. -/
theorem addWith_ite (a b : Word) (c : Bool) : addWith a b c = a + b + if c then 1 else 0 := by
  cases c <;> rfl

theorem ArmState.hasSpsr_iff (a : ArmState) : a.hasSpsr = true ↔ a.mode ≠ 0x10#5 ∧ a.mode ≠ 0x1F#5 := by
  rw [ArmState.hasSpsr, Bool.and_eq_true, bne_iff_ne, bne_iff_ne]
  rfl

@[simp] theorem ArmState.forget_spsr (a : ArmState) (l : List (BitVec 4)) : (a.forget l).spsr = a.spsr := by
  induction l generalizing a with
  | nil => rfl
  | cons n l ih => exact ih _

/-- A register that is not among the forgotten ones keeps its value. -/
theorem ArmState.reg_forget (a : ArmState) (l : List (BitVec 4)) {n : BitVec 4} (h : n ∉ l) :
    (a.forget l).reg n = a.reg n := by
  induction l generalizing a with
  | nil => rfl
  | cons k l ih =>
    obtain ⟨hk, hl⟩ := List.ne_and_not_mem_of_not_mem_cons h
    rw [ArmState.forget, ih _ hl, ArmState.reg_setReg, if_neg hk]
    rfl

/-- The registers that are banked between two modes (spec/10_state.md R35). -/
theorem mem_bankedBetween (m m' : BitVec 5) (n : BitVec 4) : n ∈ bankedBetween m m' ↔
    m' ≠ m ∧ (n = 13#4 ∨ n = 14#4 ∨ (m = 0x11#5 ∨ m' = 0x11#5) ∧ 8#4 ≤ n ∧ n ≤ 12#4) := by
  have high : n ∈ [8, 9, 10, 11, 12, 13, 14] ↔ n = 13#4 ∨ n = 14#4 ∨ 8#4 ≤ n ∧ n ≤ 12#4 := by
    revert n
    decide
  unfold bankedBetween
  by_cases hm : m = m'
  · simp [hm]
  · rw [if_neg hm]
    by_cases hf : m = armFiq ∨ m' = armFiq
    · rw [if_pos hf, high]
      exact ⟨fun h => ⟨Ne.symm hm, by tauto⟩, fun h => by tauto⟩
    · rw [if_neg hf, List.mem_pair]
      exact ⟨fun h => ⟨Ne.symm hm, by tauto⟩, fun h => by tauto⟩

theorem armReturn_reg (a : ArmState) {n : BitVec 4}
    (h : n ∉ bankedBetween a.mode (a.currentSpsr.extractLsb' 0 5)) : (armReturn a).reg n = a.reg n :=
  a.reg_forget _ h

theorem armReturn_spsr (a : ArmState) : (armReturn a).spsr = a.spsr := a.forget_spsr _

/-! ### Data processing with Rd = R15 -/

section
variable (sf : Bool) (rn rd : BitVec 4) (o : Word × Bool) (a : ArmState)

theorem armMov_eq : armMov sf rd o a = armResult sf rd o.1 (fun b => b.setResultFlags o.1 o.2 b.v) a := rfl

theorem armOrr_eq : armOrr sf rn rd o a = armResult sf rd (a.readReg rn ||| o.1)
    (fun b => b.setResultFlags (a.readReg rn ||| o.1) o.2 b.v) a := rfl

theorem armAdd_eq : armAdd sf rn rd o a = armResult sf rd (a.readReg rn + o.1)
    (fun b => b.setResultFlags (a.readReg rn + o.1) (carryFrom (a.readReg rn) o.1 false)
      (overflowAdd (a.readReg rn) o.1 (a.readReg rn + o.1))) a := rfl

theorem armAdc_eq : armAdc sf rn rd o a = armResult sf rd (addWith (a.readReg rn) o.1 a.c)
    (fun b => b.setResultFlags (addWith (a.readReg rn) o.1 a.c) (carryFrom (a.readReg rn) o.1 a.c)
      (overflowAdd (a.readReg rn) o.1 (addWith (a.readReg rn) o.1 a.c))) a := rfl

theorem armSub_eq : armSub sf rn rd o a = armResult sf rd (a.readReg rn - o.1)
    (fun b => b.setResultFlags (a.readReg rn - o.1) (!borrowFrom (a.readReg rn) o.1)
      (overflowSub (a.readReg rn) o.1 (a.readReg rn - o.1))) a := rfl

end

/-- A body that ends in `armResult` on the state as it is. -/
theorem armDo_eq_armResult {s : State} {c : ArmCond} {body : ArmState → Body ArmState} {sf : Bool} {rd : BitVec 4}
    {r : Word} {set : ArmState → ArmState} (h : body s.arm = armResult sf rd r set s.arm) :
    armDo c body s = armDo c (fun _ => armResult sf rd r set s.arm) s :=
  h ▸ armDo_const body

/-- The five instructions with one operand `op`: what each gives, whatever flags it sets. -/
theorem exec_eq_armResult_of {s : State} {c : ArmCond} {sf : Bool} {rn rd : BitVec 4} {op : ArmState → Word × Bool}
    {mov orr add adc sub i : Instr} {r : Word}
    (hmov : exec mov s = armDo c (fun a => armMov sf rd (op a) a) s)
    (horr : exec orr s = armDo c (fun a => armOrr sf rn rd (op a) a) s)
    (hadd : exec add s = armDo c (fun a => armAdd sf rn rd (op a) a) s)
    (hadc : exec adc s = armDo c (fun a => armAdc sf rn rd (op a) a) s)
    (hsub : exec sub s = armDo c (fun a => armSub sf rn rd (op a) a) s)
    (h : (i, r) ∈ [(mov, (op s.arm).1), (orr, s.arm.readReg rn ||| (op s.arm).1),
      (add, s.arm.readReg rn + (op s.arm).1), (adc, s.arm.readReg rn + (op s.arm).1 + if s.arm.c then 1 else 0),
      (sub, s.arm.readReg rn - (op s.arm).1)]) :
    ∃ set, exec i s = armDo c (fun _ => armResult sf rd r set s.arm) s := by
  simp only [List.mem_cons, Prod.mk.injEq, List.not_mem_nil, or_false, ← addWith_ite] at h
  rcases h with ⟨rfl, rfl⟩ | ⟨rfl, rfl⟩ | ⟨rfl, rfl⟩ | ⟨rfl, rfl⟩ | ⟨rfl, rfl⟩
  · exact ⟨_, hmov.trans (armDo_eq_armResult (armMov_eq sf rd _ s.arm))⟩
  · exact ⟨_, horr.trans (armDo_eq_armResult (armOrr_eq sf rn rd _ s.arm))⟩
  · exact ⟨_, hadd.trans (armDo_eq_armResult (armAdd_eq sf rn rd _ s.arm))⟩
  · exact ⟨_, hadc.trans (armDo_eq_armResult (armAdc_eq sf rn rd _ s.arm))⟩
  · exact ⟨_, hsub.trans (armDo_eq_armResult (armSub_eq sf rn rd _ s.arm))⟩

/-- A word-aligned value becomes the PC. -/
theorem ArmState.branchTo_of_aligned (a : ArmState) {v : Word} (h : v.toNat % 4 = 0) :
    a.branchTo v = .ok (a.setReg 15 v) := by
  rw [ArmState.branchTo_eq, if_pos h]

theorem ArmState.branchTo_of_not_aligned (a : ArmState) {v : Word} (h : v.toNat % 4 ≠ 0) :
    a.branchTo v = .error (.refuses .armPcLowBits) := by
  rw [ArmState.branchTo_eq, if_neg h]

@[simp] theorem ArmState.pc_setReg (a : ArmState) (v : Word) : (a.setReg 15 v).pc = v :=
  (a.reg_setReg 15 15 v).trans (if_pos rfl)

theorem ArmState.reg_setPc (a : ArmState) (v : Word) {n : BitVec 4} (h : n ≠ 15#4) :
    (a.setReg 15 v).reg n = a.reg n :=
  (a.reg_setReg 15 n v).trans (if_neg h)

/-- Settles O36: the result goes to `branchTo`, from the state itself or from the return from exception. -/
theorem armWritePc : Obligations.ArmWritePc := by
  unfold Obligations.ArmWritePc
  intro s c sf rn rot rm imm sh o i r hp x carry hi old status fiq banked
  obtain ⟨set, hexec⟩ : ∃ set, exec i s = armDo c (fun _ => armResult sf 15 r set s.arm) s := by
    rcases hi with ⟨rfl, hi⟩ | ⟨rfl, hi⟩ | ⟨rfl, hi⟩
    · exact exec_eq_armResult_of (op := fun a => a.opImm rot imm) rfl rfl rfl rfl rfl hi
    · exact exec_eq_armResult_of (op := fun a => a.opLsl sh rm) rfl rfl rfl rfl rfl hi
    · exact exec_eq_armResult_of (op := fun a => a.opLsr sh rm) rfl rfl rfl rfl rfl hi
  have hspsr : s.arm.hasSpsr = true ↔ old ≠ 0x10#5 ∧ old ≠ 0x1F#5 := s.arm.hasSpsr_iff
  have plain (hs : sf = false) : armResult sf 15 r set s.arm = s.arm.branchTo r := by
    subst hs
    rfl
  have returns (hs : sf = true) (hm : old ≠ 0x10#5 ∧ old ≠ 0x1F#5) :
      armResult sf 15 r set s.arm = (armReturn s.arm).branchTo r := by
    subst hs
    exact if_pos (hspsr.2 hm)
  refine ⟨fun hs hr => ?_, fun hs h10 h1F hr => ?_, fun hs hm => ?_, fun hm hr => ?_⟩
  · rw [ArmCompletes, hexec]
    exact ⟨_, armDo_of_ok hp ((plain hs).trans (s.arm.branchTo_of_aligned hr)), s.arm.pc_setReg r,
      ⟨fun n hn _ => s.arm.reg_setPc r hn, rfl, rfl, fun _ => rfl⟩, rfl⟩
  · rw [ArmCompletes, hexec]
    refine ⟨_, armDo_of_ok hp ((returns hs ⟨h10, h1F⟩).trans (ArmState.branchTo_of_aligned _ hr)),
      ArmState.pc_setReg _ r, rfl, fun n hn hb => ?_, armReturn_spsr s.arm, armReturn_params s.arm, fun a => ?_⟩
    · exact (ArmState.reg_setPc _ r hn).trans (armReturn_reg s.arm fun h => hb ((mem_bankedBetween _ _ n).1 h))
    · rw [ArmState.setReg_mem, armReturn_mem]
  · have none : ¬ s.arm.hasSpsr = true := fun h => by
      obtain ⟨h10, h1F⟩ := hspsr.1 h
      exact hm.elim h10 h1F
    subst hs
    exact hexec.trans (armDo_of_refuses hp (if_neg none))
  · cases sf with
    | false => exact hexec.trans (armDo_of_refuses hp ((plain rfl).trans (s.arm.branchTo_of_not_aligned hr)))
    | true =>
      have mode := hm.resolve_left (by decide)
      exact hexec.trans (armDo_of_refuses hp ((returns rfl mode).trans (ArmState.branchTo_of_not_aligned _ hr)))

/-! ### Branches -/

/-- A target inside the address space is the integer that the offset gives (spec/41_arm.md R355). -/
theorem armTarget_toNat (pc : Word) (off : BitVec 24) (h0 : 0 ≤ armTargetInt pc off)
    (h1 : armTargetInt pc off < 2 ^ 32) :
    ((pc + 8#32 + (off.signExtend 32 <<< 2)).toNat : Int) = armTargetInt pc off := by
  unfold armTargetInt at *
  rw [BitVec.signExtend, BitVec.toNat_add, BitVec.toNat_add, BitVec.toNat_shiftLeft, BitVec.toNat_ofInt,
    Nat.shiftLeft_eq, BitVec.toNat_ofNat]
  omega

/-- Bit 0 of a BX target is cleared (spec/41_arm.md R358). -/
theorem toNat_clear_low_one (v : Word) : (v &&& 0xFFFFFFFE#32).toNat = v.toNat / 2 * 2 := by
  rw [clear_low_one, BitVec.toNat_append, BitVec.toNat_zero, Nat.or_zero, Nat.shiftLeft_eq, BitVec.extractLsb'_toNat,
    Nat.shiftRight_eq_div_pow]
  have := v.isLt
  omega

section
variable {s : State} {c : ArmCond} (hp : s.arm.passes c = true)
include hp

/-- B and BL: a branch inside the address space. -/
theorem armDo_armBranch {link : Bool} {off : BitVec 24} (h0 : 0 ≤ armTargetInt s.arm.pc off)
    (h1 : armTargetInt s.arm.pc off < 2 ^ 32) :
    ∃ b, armDo c (armBranch link off) s = .next { s with arm := b } ∧ (b.pc.toNat : Int) = armTargetInt s.arm.pc off ∧
      (link = true → b.reg 14 = s.arm.pc + 4) ∧ ArmState.Keeps (if link then [14#4] else []) s.arm b ∧
      b.cpsr = s.arm.cpsr := by
  have inside : ¬ (armTargetInt s.arm.pc off < 0 ∨ (top32 : Int) ≤ armTargetInt s.arm.pc off) :=
    fun h => h.elim (by omega) (Int.not_le.2 h1)
  refine ⟨_, armDo_of_ok hp (if_neg inside), ?_, fun hl => ?_, ?_, ?_⟩
  · rw [ArmState.pc_setReg]
    exact armTarget_toNat s.arm.pc off h0 h1
  · rw [ArmState.reg_setPc _ _ (by decide), if_pos hl, ArmState.reg_setReg, if_pos rfl]
  · cases link with
    | false => exact ⟨fun n hn _ => ArmState.reg_setPc _ _ hn, rfl, rfl, fun _ => rfl⟩
    | true =>
      refine ⟨fun n hn hl => ?_, rfl, rfl, fun _ => rfl⟩
      have h14 : n ≠ 14#4 := by simpa using hl
      exact (ArmState.reg_setPc _ _ hn).trans ((s.arm.reg_setReg 14 n _).trans (if_neg h14))
  · cases link <;> rfl

theorem armDo_armBranch_of_outside {link : Bool} {off : BitVec 24}
    (h : armTargetInt s.arm.pc off < 0 ∨ 2 ^ 32 ≤ armTargetInt s.arm.pc off) :
    armDo c (armBranch link off) s = .refused .armBranchWrap :=
  armDo_of_refuses hp (if_pos h)

/-- BX on architecture v4T: the target without bit 0, which goes to the T flag. -/
theorem armDo_armBx {rm : BitVec 4} (h4 : s.arm.params.v4T = true)
    (hv : (s.arm.readReg rm).getLsbD 0 = true ∨ (s.arm.readReg rm).getLsbD 1 = false) :
    ∃ b, armDo c (armBx rm) s = .next { s with arm := b } ∧ b.pc.toNat = (s.arm.readReg rm).toNat / 2 * 2 ∧
      b.t = (s.arm.readReg rm).getLsbD 0 ∧ ArmState.Keeps [] s.arm b ∧
      ∀ k, k ≠ 5 → b.cpsr.getLsbD k = s.arm.cpsr.getLsbD k := by
  have legal : ¬ (¬ (s.arm.readReg rm).getLsbD 0 = true ∧ (s.arm.readReg rm).getLsbD 1 = true) := by
    rintro ⟨h0, h1⟩
    exact hv.elim h0 (by rw [h1]; decide)
  refine ⟨_, armDo_of_ok hp ((if_neg (not_not.2 h4)).trans (if_neg legal)), ?_, ?_,
    ⟨fun n hn _ => ArmState.reg_setPc _ _ hn, rfl, rfl, fun _ => rfl⟩, fun k hk => ?_⟩
  · rw [ArmState.pc_setReg, toNat_clear_low_one]
  · rw [ArmState.t, ArmState.setReg_cpsr, getLsbD_putBit _ _ _ _ (by decide), if_pos rfl]
  · rw [ArmState.setReg_cpsr, getLsbD_putBit _ _ _ _ (by decide), if_neg hk]

end

/-- Settles O38: B and BL share `armBranch`; BX looks at the architecture, then at the low bits of its target. -/
theorem armBranches : Obligations.ArmBranches := by
  unfold Obligations.ArmBranches
  intro s c off rm hp target v
  refine ⟨fun h0 h1 => ⟨?_, ?_⟩, fun h => ?_, fun h4 => ?_, fun h4 hv0 hv1 => ?_, fun h4 hv => armDo_armBx hp h4 hv⟩
  · obtain ⟨b, hb, hpc, -, hkeeps, hcpsr⟩ := armDo_armBranch (link := false) hp h0 h1
    exact ⟨b, hb, hpc, hkeeps, hcpsr⟩
  · obtain ⟨b, hb, hpc, hlink, hkeeps, hcpsr⟩ := armDo_armBranch (link := true) hp h0 h1
    exact ⟨b, hb, hpc, hlink rfl, hkeeps, hcpsr⟩
  · exact ⟨armDo_armBranch_of_outside hp h, armDo_armBranch_of_outside hp h⟩
  · have undefined : armBx rm s.arm = .error (.raises .armUndefined) := if_pos (by rw [h4]; decide)
    exact (armDo_of_passes hp).trans (by rw [undefined]; rfl)
  · have legal : ¬ ¬ s.arm.params.v4T = true := not_not.2 h4
    have bits : ¬ v.getLsbD 0 = true ∧ v.getLsbD 1 = true := ⟨by rw [hv0]; decide, hv1⟩
    exact armDo_of_refuses hp ((if_neg legal).trans (if_pos bits))

end Sys2Proof.Machine
end

section
/-! PROOFS, P4: arithmetic, Bicc and LD (spec/43_sparc.md R452 to R463, R467 to R470). -/

namespace Sys2Proof.Machine

/-! ### Instructions that are no control transfer -/

/-- The two forms of operand2 (spec/43_sparc.md R451). -/
theorem SparcState.op2_eq {p : SparcState} {rs2 : BitVec 5} {simm : BitVec 13} {o : SparcOp2} {y : Word}
    (h : (o, y) ∈ [(SparcOp2.reg rs2, p.reg rs2), (.imm simm, simm.signExtend 32)]) : p.op2 o = y := by
  simp only [List.mem_cons, Prod.mk.injEq, List.not_mem_nil, or_false] at h
  rcases h with ⟨rfl, rfl⟩ | ⟨rfl, rfl⟩ <;> rfl

theorem SparcState.advances_advance {p q : SparcState} (hnpc : q.npc = p.npc) (ha : q.annulNext = p.annulNext) :
    SparcState.Advances p q.advance :=
  ⟨hnpc, congrArg (· + 4) hnpc, ha, rfl⟩

/-- An instruction that writes `v` to rd and nothing else: r[0] stays zero (spec/10_state.md R44). -/
theorem sparcCompletes_setReg {i : Instr} {s : State} {body : SparcState → Body SparcState} {rd : BitVec 5} {v : Word}
    (hi : exec i s = sparcDo body s) (hb : body s.sparc = .ok (s.sparc.setReg rd v)) :
    SparcCompletes i s fun q => q.reg rd = (if rd = 0 then 0 else v) ∧ SparcState.Keeps [rd] s.sparc q ∧
      SparcState.Advances s.sparc q ∧ q.psr = s.sparc.psr := by
  refine ⟨_, hi.trans (sparcDo_of_ok hb), ?_, ⟨fun n hn => ?_, ?_⟩, SparcState.advances_advance ?_ ?_, ?_⟩
  · exact (s.sparc.reg_setReg rd rd v).trans (if_pos rfl)
  · exact (s.sparc.reg_setReg rd n v).trans (if_neg (List.ne_of_not_mem_cons hn))
  · simp [Memory.Same]
  all_goals simp

/-- A field and `k` zero bits. -/
theorem setWidth_shiftLeft_eq_append (v : BitVec m) (k : Nat) : v.setWidth (m + k) <<< k = v ++ 0#k := by
  have fits : v.toNat * 2 ^ k < 2 ^ (m + k) := by
    rw [pow_add]
    exact Nat.mul_lt_mul_of_pos_right v.isLt (Nat.two_pow_pos k)
  have small : v.toNat < 2 ^ (m + k) := Nat.lt_of_le_of_lt (Nat.le_mul_of_pos_right _ (Nat.two_pow_pos k)) fits
  apply BitVec.eq_of_toNat_eq
  rw [BitVec.toNat_shiftLeft, BitVec.toNat_setWidth, BitVec.toNat_append, BitVec.toNat_zero, Nat.or_zero,
    Nat.shiftLeft_eq, Nat.shiftLeft_eq, Nat.mod_eq_of_lt small, Nat.mod_eq_of_lt fits]

/-- Settles O45: each instruction writes one register with its value, NOP none. -/
theorem sparcArithmetic : Obligations.SparcArithmetic := by
  unfold Obligations.SparcArithmetic
  intro s rs1 rd rs2 simm imm o y ho p x gives
  have hy : p.op2 o = y := SparcState.op2_eq ho
  have writes {i : Instr} {body : SparcState → Body SparcState} {v w : Word} (hi : exec i s = sparcDo body s)
      (hb : body p = .ok (p.setReg rd v)) (hv : v = w) : gives i w := hv ▸ sparcCompletes_setReg hi hb
  refine ⟨?add, ?or, ?addx, ?mov, ?sll, ?srl, ?sethi, ?nop⟩
  case add => exact writes (body := sparcOp (· + ·) rs1 o rd) rfl rfl (by rw [hy])
  case or => exact writes (body := sparcOp (· ||| ·) rs1 o rd) rfl rfl (by rw [hy])
  case addx =>
    exact writes (body := fun q => sparcOp (fun a b => addWith a b q.c) rs1 o rd q) rfl rfl (hy ▸ addWith_eq _ _ _)
  case mov =>
    exact writes (body := sparcOp (· ||| ·) 0 o rd) rfl rfl (hy ▸ BitVec.zero_or)
  case sll =>
    exact writes (body := fun q => .ok (q.setReg rd (q.reg rs1 <<< q.count o))) rfl rfl
      (by rw [SparcState.count, hy, shiftLeft_eq_ofNat])
  case srl =>
    exact writes (body := fun q => .ok (q.setReg rd (q.reg rs1 >>> q.count o))) rfl rfl
      (by rw [SparcState.count, hy, ushiftRight_eq_ofNat])
  case sethi =>
    exact writes (body := fun q => .ok (q.setReg rd (imm.setWidth 32 <<< 10))) rfl rfl
      (setWidth_shiftLeft_eq_append imm 10)
  case nop => exact ⟨p.advance, rfl, ⟨fun _ _ => rfl, rfl, rfl, rfl, rfl, fun _ => rfl⟩, ⟨rfl, rfl, rfl, rfl⟩, rfl⟩

/-- Settles O49: alignment is looked at first, then SPARC_DAE, then the word is loaded. -/
theorem sparcLoad : Obligations.SparcLoad := by
  unfold Obligations.SparcLoad
  intro s rs1 rd rs2 simm o y ho p ea i
  have hy : p.op2 o = y := SparcState.op2_eq ho
  have hexec : exec i s = sparcDo (fun _ =>
      if ea.extractLsb' 0 2 ≠ 0#2 then .error (.raises (.sparcNotAligned (some ea)))
      else if inRegions p.params.dae ea.toNat then .error (.raises (.sparcDataAccess ea))
      else .ok (p.setReg rd (p.mem.read .big top32 32 ea.toNat))) s := by
    subst hy
    rfl
  have aligned (h : ea.toNat % 4 = 0) : ¬ ea.extractLsb' 0 2 ≠ 0#2 := not_not.2 ((low_bits_zero ea).2 h)
  refine ⟨fun h hdae => ?_, fun h => ?_, fun h hdae => ?_⟩
  · refine sparcCompletes_setReg hexec ((if_neg (aligned h)).trans (if_neg ?_))
    rwa [inRegions_iff]
  · rw [Raises, hexec, sparcDo, if_pos (mt (low_bits_zero ea).1 h)]
    rfl
  · rw [Raises, hexec, sparcDo, if_neg (aligned h), if_pos ((inRegions_iff _ _).2 hdae)]
    rfl

/-! ### Bicc -/

theorem SparcCond.code_ofCode (code : BitVec 4) : (SparcCond.ofCode code).code = code := by
  revert code
  decide

/-- The sixteen conditions (spec/43_sparc.md R462). -/
theorem SparcState.taken_iff_holds (p : SparcState) (c : SparcCond) : p.taken c = true ↔ p.Holds c.code := by
  cases c <;> simp [SparcState.taken, SparcState.Holds, SparcCond.code]

theorem SparcState.taken_ofCode (p : SparcState) (code : BitVec 4) :
    p.taken (SparcCond.ofCode code) = true ↔ p.Holds code := by
  rw [p.taken_iff_holds, SparcCond.code_ofCode]

theorem SparcCond.ofCode_eq_a (code : BitVec 4) : SparcCond.ofCode code = .a ↔ code = 8#4 := by
  revert code
  decide

/-- A displacement in words. -/
theorem shiftLeft_two_eq_mul (v : Word) : v <<< 2 = v * 4 := by
  rw [shiftLeft_eq_ofNat]
  apply BitVec.eq_of_toNat_eq
  rw [BitVec.toNat_ofNat, BitVec.toNat_mul]
  rfl

/-- Settles O47: the condition that is taken is the one of R462, and an annulled instruction is skipped before the
fetch. -/
theorem sparcBranches : Obligations.SparcBranches := by
  unfold Obligations.SparcBranches
  intro s code a disp p i
  have taken : p.taken (SparcCond.ofCode code) = true ↔ p.Holds code := p.taken_ofCode code
  have hexec : exec i s = if p.inDelaySlot = true then .refused .sparcCtiInSlot else .next { s with
      sparc := p.transfer (p.biccNpc (SparcCond.ofCode code) disp) (p.annuls a (SparcCond.ofCode code)) } := rfl
  refine ⟨fun hslot => ?_, fun hslot => hexec.trans (if_pos hslot), fun hpart hannul => ?_⟩
  · rw [if_neg (Bool.eq_false_iff.1 hslot)] at hexec
    refine ⟨_, hexec, rfl, fun h => ?_, fun h => ?_, ?_, rfl, rfl, fun _ _ => rfl, rfl, rfl, rfl, rfl, fun _ => rfl⟩
    · exact (if_pos (taken.2 h)).trans (by rw [shiftLeft_two_eq_mul])
    · exact if_neg (mt taken.1 h)
    · change (a && (SparcCond.ofCode code == .a || !p.taken (SparcCond.ofCode code))) = true ↔ _
      rw [Bool.and_eq_true, Bool.or_eq_true, beq_iff_eq, SparcCond.ofCode_eq_a, Bool.not_eq_true', ← taken,
        Bool.not_eq_true]
  · have before : beforeFetch s = some (.next { s with sparc := p.skipped }) := by
      rw [beforeFetch, hpart]
      exact if_pos hannul
    refine ⟨p.skipped, ?_, rfl, rfl, rfl, rfl, rfl, fun _ _ => rfl, rfl, rfl, rfl, rfl, fun _ => rfl⟩
    rw [step, before]

end Sys2Proof.Machine
end

section
/-! PROOFS, P5: arithmetic, EXT and INS (spec/44_mips32.md R531 to R548). -/

namespace Sys2Proof.Machine

/-- An instruction that writes `v` to rd and nothing else: GPR[0] stays zero (spec/10_state.md R52). -/
theorem mipsCompletes_setReg {i : Instr} {s : State} {body : MipsState → Body MipsState} {rd : BitVec 5} {v : Word}
    (hi : exec i s = mipsDo body s) (hb : body s.mips = .ok (s.mips.setReg rd v)) :
    MipsCompletes i s fun q => q.reg rd = (if rd = 0 then 0 else v) ∧ MipsState.Keeps [rd] s.mips q ∧
      MipsState.Advances s.mips q := by
  refine ⟨_, hi.trans (mipsDo_of_ok hb), ?_, ⟨fun n hn => ?_, ?_, ?_⟩, MipsState.advances_advance ?_ ?_ ?_⟩
  · rw [MipsState.reg_advance, MipsState.reg_setReg, if_pos rfl]
    rfl
  · rw [MipsState.reg_advance, MipsState.reg_setReg, if_neg (List.ne_of_not_mem_cons hn)]
  · simp
  · simp [Memory.Same]
  all_goals simp

/-! ### Bit fields -/

/-- The mask of `n` bits from `lo` up. -/
theorem getLsbD_lowMask_shiftLeft (n lo k : Nat) (hk : k < 32) :
    (lowMask n <<< lo).getLsbD k = decide (lo ≤ k ∧ k < lo + n) := by
  rw [BitVec.getLsbD_shiftLeft]
  by_cases hlo : lo ≤ k
  · have below : k - lo < n ↔ k < lo + n := by omega
    rw [getLsbD_lowMask n (k - lo) (by omega)]
    simp [hk, hlo, below]
  · simp [hlo]

/-- EXT, from the bits of its result (spec/44_mips32.md R538). -/
theorem extracted_eq {x v : Word} {hi lo : Nat}
    (hv : ∀ k, k < 32 → v.getLsbD k = (decide (k ≤ hi) && x.getLsbD (k + lo))) :
    (x >>> lo) &&& lowMask (hi + 1) = v := by
  apply BitVec.eq_of_getLsbD_eq
  intro k hk
  rw [BitVec.getLsbD_and, BitVec.getLsbD_ushiftRight, getLsbD_lowMask _ k hk, hv k hk, Bool.and_comm, Nat.add_comm lo,
    decide_eq_decide.2 Nat.lt_succ_iff]

/-- INS, from the bits of its result (spec/44_mips32.md R539). -/
theorem inserted_eq {x y v : Word} {hi lo : Nat} (h : lo ≤ hi)
    (hv : ∀ k, k < 32 → v.getLsbD k = if lo ≤ k ∧ k ≤ hi then x.getLsbD (k - lo) else y.getLsbD k) :
    (y &&& ~~~(lowMask (hi - lo + 1) <<< lo)) ||| ((x <<< lo) &&& (lowMask (hi - lo + 1) <<< lo)) = v := by
  apply BitVec.eq_of_getLsbD_eq
  intro k hk
  have field : (lowMask (hi - lo + 1) <<< lo).getLsbD k = decide (lo ≤ k ∧ k ≤ hi) := by
    rw [getLsbD_lowMask_shiftLeft _ _ k hk]
    exact decide_eq_decide.2 (by omega)
  rw [BitVec.getLsbD_or, BitVec.getLsbD_and, BitVec.getLsbD_and, BitVec.getLsbD_not, field, BitVec.getLsbD_shiftLeft,
    hv k hk]
  by_cases hin : lo ≤ k ∧ k ≤ hi
  · simp [hin, hk]
  · simp [hin, hk]

/-- Settles O50: each instruction writes one register; EXT and INS look at the release, then at the range. -/
theorem mipsArithmetic : Obligations.MipsArithmetic := by
  unfold Obligations.MipsArithmetic
  intro s rt rs rd hi lo imm p x gives
  have zero : p.reg 0 = 0#32 := rfl
  have ext : exec (.mipsExt rt rs hi lo) s = mipsDo (fun _ =>
      if p.params.release = .r1 then .error (.raises .mipsReserved)
      else if 31 < lo.toNat + hi.toNat then .error (.refuses .mipsExtRange)
      else .ok (p.setReg rt ((x >>> lo.toNat) &&& lowMask (hi.toNat + 1)))) s := rfl
  have ins : exec (.mipsIns rt rs hi lo) s = mipsDo (fun _ =>
      if p.params.release = .r1 then .error (.raises .mipsReserved)
      else if hi.toNat < lo.toNat then .error (.refuses .mipsInsRange)
      else .ok (p.setReg rt ((p.reg rt &&& ~~~(lowMask (hi.toNat - lo.toNat + 1) <<< lo.toNat)) |||
        ((x <<< lo.toNat) &&& (lowMask (hi.toNat - lo.toNat + 1) <<< lo.toNat))))) s := rfl
  refine ⟨?addiu, ?ori, ?addu, ?sltu, ?move, ?liAddiu, ?liOri, fun hr hrange v hv => ?ext, fun hr hrange v hv => ?ins,
    fun hr hrange => ?extRange, fun hr hrange => ?insRange, fun hr => ?reserved⟩
  case addiu => exact mipsCompletes_setReg (body := mipsAddiuBody rt rs imm) rfl rfl
  case ori => exact mipsCompletes_setReg (body := mipsOriBody rt rs imm) rfl rfl
  case addu => exact mipsCompletes_setReg (body := mipsAdduBody rd rs rt) rfl rfl
  case sltu =>
    exact mipsCompletes_setReg (body := fun q => .ok (q.setReg rd (if q.reg rs < q.reg rt then 1#32 else 0#32))) rfl rfl
  case move =>
    refine mipsCompletes_setReg (body := mipsAdduBody rd rs 0) rfl ?_
    rw [mipsAdduBody, zero, BitVec.add_zero]
  case liAddiu =>
    refine mipsCompletes_setReg (body := mipsAddiuBody rt 0 imm) rfl ?_
    rw [mipsAddiuBody, zero, BitVec.zero_add]
  case liOri =>
    refine mipsCompletes_setReg (body := mipsOriBody rt 0 imm) rfl ?_
    rw [mipsOriBody, zero, BitVec.zero_or]
  case ext =>
    refine mipsCompletes_setReg ext ?_
    rw [if_neg hr, if_neg (by omega), extracted_eq hv]
  case ins =>
    refine mipsCompletes_setReg ins ?_
    rw [if_neg hr, if_neg (by omega), inserted_eq hrange hv]
  case extRange =>
    rw [ext, mipsDo, if_neg hr, if_pos hrange]
    rfl
  case insRange =>
    rw [ins, mipsDo, if_neg hr, if_pos hrange]
    rfl
  case reserved =>
    constructor
    · rw [Raises, ext, mipsDo, if_pos hr]
      rfl
    · rw [Raises, ins, mipsDo, if_pos hr]
      rfl

end Sys2Proof.Machine
end

section
/-! PROOFS, P6: integer instructions and shifts at XLEN bits (spec/45_riscv.md R597 to R617, R648 to R654). -/

namespace Sys2Proof.Machine

/-- What an instruction that writes neither a register nor the pc leaves, memory, the reservation and the MODEL's own
fields apart. -/
structure RvState.SameCore (p q : RvState) : Prop where
  x : q.x = p.x
  csrs : RvState.KeepsCsrs p q
  params : q.params = p.params
  cycle : q.cycle = p.cycle
  pc : q.pc = p.pc

/-- x[rd] holds `v` (x[0] stays zero), and pc is past the instruction; memory and the reservation apart, nothing else
changed. -/
def RvState.Sets (rd : BitVec 5) (p : RvState) (v : BitVec p.xlen) (q : RvState) : Prop :=
  q.reg p.xlen rd = (if rd = 0 then 0 else v) ∧ RvState.Keeps [rd] p q ∧ q.cycle = p.cycle ∧ q.pc = p.cut (p.pc + 4)

theorem RvState.sameCore_refl (p : RvState) : RvState.SameCore p p :=
  ⟨rfl, ⟨rfl, rfl, rfl, rfl, rfl, rfl, rfl, rfl, rfl⟩, rfl, rfl, rfl⟩

section
variable {p q : RvState} (h : RvState.SameCore p q)
include h

theorem RvState.SameCore.reg (n : Nat) (k : BitVec 5) : q.reg n k = p.reg n k := by
  rw [RvState.reg, RvState.reg, h.x]

/-- The pc past an instruction that does not write it (spec/10_state.md R58). -/
theorem RvState.SameCore.pc_advance (len : DWord) : (q.advance len).pc = p.cut (p.pc + len) := by
  rw [RvState.advance, RvState.cut, RvState.cut, h.pc, h.params]

/-- A value of any width is written cut to XLEN bits. -/
theorem RvState.SameCore.sets_setReg (rd : BitVec 5) (v : BitVec n) :
    RvState.Sets rd p ((v.setWidth 64).setWidth p.xlen) ((q.setReg rd v).advance 4) := by
  refine ⟨?_, ⟨fun k hk => ?_, ?_, ?_⟩, ?_, ?_⟩
  · exact (q.reg_setReg rd rd v p.xlen).trans (if_pos rfl)
  · exact (q.reg_setReg rd k v p.xlen).trans ((if_neg (List.ne_of_not_mem_cons hk)).trans (h.reg _ k))
  · simpa [RvState.KeepsCsrs] using h.csrs
  · simp [h.params]
  · simp [h.cycle]
  · rw [RvState.advance, RvState.setReg_pc, RvState.cut, RvState.cut, RvState.setReg_params, h.pc, h.params]

end

/-- An instruction that writes `v` to rd and nothing else: x[0] stays zero (spec/10_state.md R57). -/
theorem RvState.sets_setReg_xlen (p : RvState) (rd : BitVec 5) (v : BitVec p.xlen) :
    RvState.Sets rd p v ((p.setReg rd v).advance 4) := by
  have written := p.sameCore_refl.sets_setReg rd v
  rwa [setWidth_64_setWidth v (by rcases p.xlen_cases with h | h <;> omega)] at written

theorem RvState.gets_advance_setReg (p : RvState) (rd : BitVec 5) (v : BitVec p.xlen) :
    RvState.Gets rd p v ((p.setReg rd v).advance 4) := by
  obtain ⟨hreg, hkeeps, hcycle, -⟩ := p.sets_setReg_xlen rd v
  exact ⟨hreg, hkeeps, by simp [Memory.Same], hcycle, by simp⟩

theorem rvCompletes_rvWrite {present : RvParams → Bool} {i : Instr} {s : State} {body : RvState → Body RvState}
    {rd : BitVec 5} {v : BitVec s.rv.xlen} (hi : exec i s = rvDo present 4 body s)
    (hp : present s.rv.params = true) (hb : body s.rv = rvWrite rd v s.rv) :
    RvCompletes i s fun q => RvState.Gets rd s.rv v q ∧ q.pc = s.rv.cut (s.rv.pc + 4) :=
  have ⟨_, _, _, hpc⟩ := s.rv.sets_setReg_xlen rd v
  ⟨_, hi.trans (rvDo_of_ok hp hb), s.rv.gets_advance_setReg rd v, hpc⟩

section
variable {present : RvParams → Bool} {len : DWord} {body : RvState → Body RvState} {s : State}
  (hp : present s.rv.params = true)
include hp

theorem rvDo_of_raises {e : Exception} (hb : body s.rv = .error (.raises e)) :
    rvDo present len body s = .fault (.raised e { s with x86 := { s.x86 with pfx := .none } }) := by
  rw [rvDo, if_pos hp, hb]
  rfl

theorem rvDo_of_refuses {r : Refusal} (hb : body s.rv = .error (.refuses r)) :
    rvDo present len body s = .refused r := by
  rw [rvDo, if_pos hp, hb]
  rfl

end

/-! ### The values -/

theorem rvBool_eq (n : Nat) (b : Bool) : rvBool n b = if b = true then 1 else 0 := by
  cases b
  · exact BitVec.setWidth_zero n 1
  · apply BitVec.eq_of_toNat_eq
    rw [if_pos rfl, rvBool, BitVec.toNat_setWidth]
    rfl

theorem rvLessSigned_eq (n : Nat) (a b : BitVec n) : rvLessSigned n a b = if a.toInt < b.toInt then 1 else 0 := by
  rw [rvLessSigned, rvBool_eq]
  simp [BitVec.slt]

theorem rvLessUnsigned_eq (n : Nat) (a b : BitVec n) :
    rvLessUnsigned n a b = if a.toNat < b.toNat then 1 else 0 := by
  rw [rvLessUnsigned, rvBool_eq]
  simp [BitVec.ult]

/-- Settles O53: each instruction writes one register with its value at XLEN bits; nop writes x[0]. -/
theorem rvIntegers : Obligations.RvIntegers := by
  unfold Obligations.RvIntegers
  intro s rd rs1 rs2 imm up p x y z gives
  have writes {i : Instr} {body : RvState → Body RvState} {v w : BitVec p.xlen} (hi : exec i s = rvDo rvBase 4 body s)
      (hb : body p = rvWrite rd v p) (hv : v = w) : gives i w := hv ▸ rvCompletes_rvWrite hi rfl hb
  have reg3 {i : Instr} (f : (n : Nat) → BitVec n → BitVec n → BitVec n) {w : BitVec p.xlen}
      (hi : exec i s = rvDo rvBase 4 (rvReg3 f rd rs1 rs2) s) (hv : f p.xlen x y = w) : gives i w := writes hi rfl hv
  have regImm {i : Instr} (f : (n : Nat) → BitVec n → BitVec n → BitVec n) {w : BitVec p.xlen}
      (hi : exec i s = rvDo rvBase 4 (rvRegImm f rd rs1 imm) s) (hv : f p.xlen x z = w) : gives i w := writes hi rfl hv
  refine ⟨reg3 rvSum rfl rfl, regImm rvSum rfl rfl, reg3 rvUnion rfl rfl, regImm rvUnion rfl rfl,
    reg3 rvLessSigned rfl (rvLessSigned_eq _ x y), regImm rvLessSigned rfl (rvLessSigned_eq _ x z),
    reg3 rvLessUnsigned rfl (rvLessUnsigned_eq _ x y), regImm rvLessUnsigned rfl (rvLessUnsigned_eq _ x z),
    ?lui, ?neg, ?not, ?li, ?nop⟩
  case lui =>
    exact writes (body := fun q => rvWrite rd ((up.setWidth 32 <<< 12).signExtend q.xlen) q) rfl rfl
      (congrArg (BitVec.signExtend p.xlen) (setWidth_shiftLeft_eq_append up 12))
  case neg =>
    exact writes (body := fun q => rvWrite rd (-(q.reg q.xlen rs2)) q) rfl rfl (BitVec.zero_sub y).symm
  case not =>
    exact writes (body := fun q => rvWrite rd (~~~(q.reg q.xlen rs1)) q) rfl rfl BitVec.xor_allOnes.symm
  case li =>
    exact writes (body := rvRegImm rvSum rd 0 imm) rfl rfl (BitVec.zero_add z)
  case nop =>
    exact ⟨p.advance 4, rfl, ⟨fun _ _ => rfl, ⟨rfl, rfl, rfl, rfl, rfl, rfl, rfl, rfl, rfl⟩, rfl⟩, fun _ => rfl, rfl,
      rfl, rfl⟩

/-! ### Shifts -/

/-- Bit 5 of an immediate amount is the bit of 32 and up. -/
theorem shamtFits_iff (shamt : BitVec 6) (p : RvState) :
    shamtFits shamt p = true ↔ p.params.rv64 = true ∨ shamt.toNat < 32 := by
  have bit5 : shamt.getLsbD 5 = decide (32 ≤ shamt.toNat) := by
    revert shamt
    decide
  rw [shamtFits, bit5, Bool.or_eq_true, Bool.not_eq_true', decide_eq_false_iff_not, Nat.not_le]

/-- Settles O54: a shift is a product or a quotient by a power of two, and an immediate amount is looked at first. -/
theorem rvShifts : Obligations.RvShifts := by
  unfold Obligations.RvShifts
  intro s rd rs1 rs2 shamt p x amount gives
  have writes {i : Instr} {body : RvState → Body RvState} {v : BitVec p.xlen} {w : Nat}
      (hi : exec i s = rvDo rvBase 4 body s) (hb : body p = rvWrite rd v p) (hv : v = BitVec.ofNat p.xlen w) :
      gives i w := rvCompletes_rvWrite hi rfl (hv ▸ hb)
  have left (k : Nat) : p.reg p.xlen rs1 <<< k = BitVec.ofNat p.xlen (x * 2 ^ k) := shiftLeft_eq_ofNat _ k
  have right (k : Nat) : p.reg p.xlen rs1 >>> k = BitVec.ofNat p.xlen (x / 2 ^ k) := ushiftRight_eq_ofNat _ k
  have slli : exec (.rvSlli rd rs1 shamt) s = rvDo rvBase 4 (rvShift (shamtFits shamt) fun q =>
      rvWrite rd (q.reg q.xlen rs1 <<< shamt.toNat) q) s := rfl
  have srli : exec (.rvSrli rd rs1 shamt) s = rvDo rvBase 4 (rvShift (shamtFits shamt) fun q =>
      rvWrite rd (q.reg q.xlen rs1 >>> shamt.toNat) q) s := rfl
  refine ⟨?sll, ?srl, fun hfits => ?legal, fun h32 hlarge => ?illegal⟩
  case sll => exact writes (body := fun q => rvWrite rd (q.reg q.xlen rs1 <<< q.amount rs2) q) rfl rfl (left amount)
  case srl => exact writes (body := fun q => rvWrite rd (q.reg q.xlen rs1 >>> q.amount rs2) q) rfl rfl (right amount)
  case legal =>
    have fits := (shamtFits_iff shamt p).2 hfits
    exact ⟨writes slli (if_pos fits) (left _), writes srli (if_pos fits) (right _)⟩
  case illegal =>
    have unfit : ¬ shamtFits shamt p = true := by
      rw [shamtFits_iff, h32]
      simp [hlarge]
    exact ⟨slli.trans (rvDo_of_raises rfl (if_neg unfit)), srli.trans (rvDo_of_raises rfl (if_neg unfit))⟩

end Sys2Proof.Machine
end

section
/-! PROOFS, P6: loads, stores and atomics (spec/45_riscv.md R585 to R594, R631 to R634; spec/20_memory.md R120). -/

namespace Sys2Proof.Machine

/-! ### Loads -/

/-- A load of `w` bits that exists: the loaded value extended, or the access fault. -/
theorem rvLoad_outcomes {present : RvParams → Bool} {i : Instr} {s : State} {w : Nat}
    {ext : (n : Nat) → BitVec w → BitVec n} {rd : BitVec 5} {off : BitVec 12} {rs1 : BitVec 5}
    (hi : exec i s = rvDo present 4 (rvLoad w ext rd off rs1) s) (hp : present s.rv.params = true) (hw : 0 < w / 8) :
    (RvState.Allows s.rv .load (s.rv.ea rs1 off) (w / 8) → RvCompletes i s fun q =>
      RvState.Gets rd s.rv (ext s.rv.xlen (Memory.read .little s.rv.top w s.rv.mem (s.rv.ea rs1 off))) q ∧
        q.pc = s.rv.cut (s.rv.pc + 4)) ∧
    (¬ RvState.Allows s.rv .load (s.rv.ea rs1 off) (w / 8) →
      Raises i s (.rvAccessFault .load (s.rv.ea rs1 off))) := by
  constructor
  · intro h
    refine rvCompletes_rvWrite hi hp ?_
    rw [rvLoad, s.rv.load_of_allows w _ hw h]
  · intro h
    refine hi.trans (rvDo_of_raises hp ?_)
    rw [rvLoad, s.rv.load_of_not_allows w _ hw h]

/-! ### Stores -/

/-- A store of at most eight bytes reads back and changes no other byte (spec/20_memory.md R101). -/
theorem RvState.stored_put (p : RvState) (a : Nat) (v : BitVec w) (hm : Memory.wf p.top p.mem) (hw : w % 8 = 0)
    (h8 : w / 8 ≤ 8) : Memory.Stored .little p.top p.mem (p.put a v).mem a v := by
  have large : 8 ≤ p.top := by
    unfold RvState.top
    rcases p.xlen_cases with h | h <;> rw [h] <;> decide
  have pos : 0 < p.top := Nat.lt_of_lt_of_le (by decide) large
  exact ⟨Memory.read_write_same .little p.top pos p.mem a v hm (Nat.le_trans h8 large) hw,
    fun b hb => Memory.get_write_other .little p.top pos p.mem a b v hm hb⟩

/-- What a store that completes does to the reservation (spec/10_state.md R61; notes/assumptions/31.md). -/
theorem RvState.afterStore_reservation (p : RvState) (a n : Nat) :
    ((p.afterStore a n).reservation = p.reservation ∨ (p.afterStore a n).reservation = none) ∧
    (p.Disjoint a n → (p.afterStore a n).reservation = p.reservation) := by
  constructor
  · obtain ⟨h, -⟩ | ⟨r, hr, h⟩ := p.afterStore_cases a n
    · exact .inl (by rw [h])
    · rwa [h]
  · intro h
    rw [RvState.afterStore, (p.overlapsReservation_eq_false a n).2 h]
    rfl

/-- A store writes no register, CSR or parameter. -/
theorem RvState.sameCore_stored (p : RvState) (a n : Nat) (v : BitVec w) :
    RvState.SameCore p ((p.put a v).afterStore a n) where
  x := by simp
  csrs := by simp [RvState.KeepsCsrs]
  params := by simp
  cycle := by simp
  pc := by simp

/-- A store of `w` bits: stored, or the access fault, or refused over the reservation. -/
theorem rvStore_outcomes {i : Instr} {s : State} {w : Nat} {rs2 : BitVec 5} {off : BitVec 12} {rs1 : BitVec 5}
    (hi : exec i s = rvDo rvBase 4 (rvStore w rs2 off rs1) s) (h0 : 0 < w / 8) (hw : w % 8 = 0) (h8 : w / 8 ≤ 8) :
    (s.rv.Settled (s.rv.ea rs1 off) (w / 8) → Memory.wf s.rv.top s.rv.mem →
      RvState.Allows s.rv .store (s.rv.ea rs1 off) (w / 8) → RvCompletes i s fun q =>
        Memory.Stored .little s.rv.top s.rv.mem q.mem (s.rv.ea rs1 off) (s.rv.reg w rs2) ∧
        RvState.Keeps [] s.rv q ∧ q.cycle = s.rv.cycle ∧ (q.reservation = s.rv.reservation ∨ q.reservation = none) ∧
        (s.rv.Disjoint (s.rv.ea rs1 off) (w / 8) → q.reservation = s.rv.reservation) ∧
        q.pc = s.rv.cut (s.rv.pc + 4)) ∧
    (s.rv.Settled (s.rv.ea rs1 off) (w / 8) → ¬ RvState.Allows s.rv .store (s.rv.ea rs1 off) (w / 8) →
      Raises i s (.rvAccessFault .store (s.rv.ea rs1 off))) ∧
    (¬ s.rv.Settled (s.rv.ea rs1 off) (w / 8) → exec i s = .refused .rvReservedStore) := by
  refine ⟨fun hs hm ha => ?_, fun hs ha => ?_, fun hs => ?_⟩
  · have core := s.rv.sameCore_stored (s.rv.ea rs1 off) (w / 8) (s.rv.reg w rs2)
    obtain ⟨either, kept⟩ :=
      (s.rv.put (s.rv.ea rs1 off) (s.rv.reg w rs2)).afterStore_reservation (s.rv.ea rs1 off) (w / 8)
    refine ⟨_, hi.trans (rvDo_of_ok rfl (s.rv.store_of_allows _ _ h0 hs ha)), ?_,
      ⟨fun k _ => core.reg _ k, core.csrs, core.params⟩, core.cycle, either, kept, core.pc_advance 4⟩
    rw [RvState.advance_mem, RvState.afterStore_mem]
    exact s.rv.stored_put _ _ hm hw h8
  · exact hi.trans (rvDo_of_raises rfl (s.rv.store_of_not_allows _ _ h0 hs ha))
  · exact hi.trans (rvDo_of_refuses rfl (s.rv.store_of_unsettled _ _ hs))

/-- Settles O56: the forms differ in their width, their extension and their XLEN. -/
theorem rvLoadsStores : Obligations.RvLoadsStores := by
  unfold Obligations.RvLoadsStores
  intro s rd rs1 rs2 off i w unsigned p a
  constructor
  · simp only [List.mem_cons, Prod.mk.injEq, List.not_mem_nil, or_false]
    rintro ((⟨rfl, rfl, rfl⟩ | ⟨rfl, rfl, rfl⟩ | ⟨rfl, rfl, rfl⟩) | ⟨h64, ⟨rfl, rfl, rfl⟩ | ⟨rfl, rfl, rfl⟩⟩)
    · exact rvLoad_outcomes (present := rvBase) (ext := fun n v => v.signExtend n) rfl rfl (by decide)
    · exact rvLoad_outcomes (present := rvBase) (ext := fun n v => v.signExtend n) rfl rfl (by decide)
    · exact rvLoad_outcomes (present := rvBase) (ext := fun n v => v.setWidth n) rfl rfl (by decide)
    · exact rvLoad_outcomes (present := rv64Only) (ext := fun n v => v.setWidth n) rfl h64 (by decide)
    · exact rvLoad_outcomes (present := rv64Only) (ext := fun n v => v.setWidth n) rfl h64 (by decide)
  · simp only [List.mem_cons, Prod.mk.injEq, List.not_mem_nil, or_false]
    rintro (⟨rfl, rfl⟩ | ⟨rfl, rfl⟩ | ⟨rfl, rfl⟩)
    all_goals exact rvStore_outcomes rfl (by decide) (by decide) (by decide)

/-! ### Atomics -/

theorem rvAligned_of {a n : Nat} (h : a % n = 0) (b : Body RvState) : rvAligned a n b = b := if_pos h

theorem rvAligned_of_not {a n : Nat} (h : a % n ≠ 0) (b : Body RvState) :
    rvAligned a n b = .error (.refuses .rvMisalignedAtomic) := if_neg h

/-- A load-reserved of `w` bits that exists. -/
theorem rvLoadReserved_outcomes {present : RvParams → Bool} {i : Instr} {s : State} {w : Nat} {rd rs1 : BitVec 5}
    (hi : exec i s = rvDo present 4 (rvLoadReserved w rd rs1) s) (hp : present s.rv.params = true) (hw : 0 < w / 8) :
    (s.rv.addr rs1 % (w / 8) ≠ 0 → exec i s = .refused .rvMisalignedAtomic) ∧
    (s.rv.addr rs1 % (w / 8) = 0 → RvState.Allows s.rv .load (s.rv.addr rs1) (w / 8) → RvCompletes i s fun q =>
      RvState.Sets rd s.rv
        ((Memory.read .little s.rv.top w s.rv.mem (s.rv.addr rs1)).signExtend s.rv.xlen) q ∧
      Memory.Same s.rv.mem q.mem ∧ q.reservation = some ⟨s.rv.addr rs1, w / 8⟩) ∧
    (s.rv.addr rs1 % (w / 8) = 0 → ¬ RvState.Allows s.rv .load (s.rv.addr rs1) (w / 8) →
      Raises i s (.rvAccessFault .load (s.rv.addr rs1))) := by
  refine ⟨fun h => ?_, fun h ha => ?_, fun h ha => ?_⟩
  · exact hi.trans (rvDo_of_refuses hp (rvAligned_of_not h _))
  · have hb : rvLoadReserved w rd rs1 s.rv = .ok { (s.rv.setReg rd
        ((Memory.read .little s.rv.top w s.rv.mem (s.rv.addr rs1)).signExtend s.rv.xlen)) with
        reservation := some ⟨s.rv.addr rs1, w / 8⟩ } := by
      rw [rvLoadReserved, rvAligned_of h, s.rv.load_of_allows w _ hw ha]
    refine ⟨_, hi.trans (rvDo_of_ok hp hb), s.rv.sets_setReg_xlen rd _, ?_, rfl⟩
    simp [Memory.Same]
  · refine hi.trans (rvDo_of_raises hp ?_)
    rw [rvLoadReserved, rvAligned_of h, s.rv.load_of_not_allows w _ hw ha]

/-- A word reservation inside the doubleword at `a` (spec/45_riscv.md R633). -/
theorem any_wordInside_iff (r : Option RvReservation) (a : Nat) :
    r.any (fun r => RvReservation.wordInside r a) = true ↔ r = some ⟨a, 4⟩ ∨ r = some ⟨a + 4, 4⟩ := by
  cases r with
  | none => simp
  | some r =>
    obtain ⟨addr, size⟩ := r
    simp [RvReservation.wordInside]
    tauto

/-- Whether an sc.d succeeds draws a value or nothing. -/
theorem RvState.scSucceeds_state (p : RvState) (a : Nat) :
    RvState.SameCore p (p.scSucceeds a).2 ∧ (p.scSucceeds a).2.mem = p.mem := by
  have same := p.sameCore_refl
  have drawn : RvState.SameCore p (p.draw 1).2 := ⟨rfl, same.csrs, rfl, rfl, rfl⟩
  unfold RvState.scSucceeds
  split
  · exact ⟨same, rfl⟩
  · split_ifs
    · exact ⟨drawn, rfl⟩
    · exact ⟨same, rfl⟩
    · exact ⟨drawn, rfl⟩
    · exact ⟨same, rfl⟩

theorem RvState.scSucceeds_of_match {p : RvState} {a : Nat} (hr : p.reservation = some ⟨a, 8⟩)
    (hf : p.params.scMayFail = false) : (p.scSucceeds a).1 = true := by
  simp [RvState.scSucceeds, hr, hf]

theorem RvState.scSucceeds_of_none {p : RvState} {a : Nat} (hr : p.reservation ≠ some ⟨a, 8⟩)
    (hw : ¬ p.reservation.any (fun r => RvReservation.wordInside r a) = true) : (p.scSucceeds a).1 = false := by
  unfold RvState.scSucceeds
  cases h : p.reservation with
  | none => rfl
  | some r =>
    rw [h] at hr hw
    have other : r ≠ ⟨a, 8⟩ := fun e => hr (congrArg some e)
    have outside : RvReservation.wordInside r a = false := Bool.eq_false_iff.2 hw
    simp [other, outside]

theorem nonzero_ne_zero (v : DWord) : nonzero v ≠ 0 := by
  unfold nonzero
  split
  · decide
  · assumption

/-- sc.d succeeded: rd is 0, the doubleword is stored, and the reservation is gone. -/
def RvState.ScStored (rd rs2 : BitVec 5) (a : Nat) (p q : RvState) : Prop :=
  RvState.Sets rd p 0 q ∧ Memory.Stored .little p.top p.mem q.mem a (p.reg 64 rs2) ∧ q.reservation = none

/-- sc.d failed: rd is not 0, nothing is stored, and the reservation is gone. -/
def RvState.ScFailed (rd : BitVec 5) (p q : RvState) : Prop :=
  (∃ v, v ≠ 0 ∧ RvState.Sets rd p v q) ∧ Memory.Same p.mem q.mem ∧ q.reservation = none

theorem rv64A_of {c : RvParams} (h64 : c.rv64 = true) (hA : c.extA = true) : rv64A c = true :=
  (Bool.and_eq_true _ _).mpr ⟨h64, hA⟩

/-- With XLEN = 64 a doubleword that is not zero is written as it is. -/
theorem RvState.setWidth_xlen_ne_zero {p : RvState} (h64 : p.params.rv64 = true) {v : DWord} (hv : v ≠ 0) :
    (v.setWidth 64).setWidth p.xlen ≠ 0 := by
  have hx : p.xlen = 64 := by rw [RvState.xlen, h64]; rfl
  intro e
  have hn : v.toNat % 2 ^ 64 % 2 ^ p.xlen = 0 := by
    simpa only [BitVec.toNat_setWidth, BitVec.ofNat_eq_ofNat, BitVec.toNat_ofNat, Nat.zero_mod] using
      congrArg BitVec.toNat e
  rw [hx, Nat.mod_mod, Nat.mod_eq_of_lt v.isLt] at hn
  exact hv (BitVec.eq_of_toNat_eq hn)

section
variable {p q : RvState} (core : RvState.SameCore p q) (hmem : q.mem = p.mem)
include core hmem

theorem RvState.scStored_of (rd rs2 : BitVec 5) (a : Nat) (hm : Memory.wf p.top p.mem) :
    RvState.ScStored rd rs2 a p
      (RvState.advance { ((q.put a (p.reg 64 rs2)).setReg rd 0#64) with reservation := none } 4) := by
  have top : q.top = p.top := by rw [RvState.top, RvState.xlen, core.params]; rfl
  have put : RvState.SameCore p (q.put a (p.reg 64 rs2)) := ⟨core.x, core.csrs, core.params, core.cycle, core.pc⟩
  have written := put.sets_setReg rd 0#64
  have stored := q.stored_put a (p.reg 64 rs2) (by rwa [top, hmem]) (by decide) (by decide)
  rw [BitVec.setWidth_zero, BitVec.setWidth_zero] at written
  rw [top, hmem] at stored
  refine ⟨written, ?_, rfl⟩
  rw [RvState.advance_mem]
  dsimp only
  rwa [RvState.setReg_mem]

theorem RvState.scFailed_of (rd : BitVec 5) (h64 : p.params.rv64 = true) :
    RvState.ScFailed rd p
      (RvState.advance { ((q.draw 64).2.setReg rd (nonzero (q.draw 64).1)) with reservation := none } 4) := by
  have drawn : RvState.SameCore p (q.draw 64).2 := ⟨core.x, core.csrs, core.params, core.cycle, core.pc⟩
  refine ⟨⟨_, RvState.setWidth_xlen_ne_zero h64 (nonzero_ne_zero (q.draw 64).1), drawn.sets_setReg rd _⟩, ?_, rfl⟩
  intro b
  rw [RvState.advance_mem]
  dsimp only
  rw [RvState.setReg_mem, RvState.draw_mem, hmem]

end

section
variable {s : State} {aq rl : Bool} {rd rs2 rs1 : BitVec 5} (h64 : s.rv.params.rv64 = true)
  (hA : s.rv.params.extA = true) (ha : s.rv.addr rs1 % 8 = 0)
include h64 hA ha

/-- sc.d that is not refused: by whether it succeeds, and then by the access fault. -/
theorem rvScD_outcomes (hs : ¬ (s.rv.params.unsettled = .refuse ∧
      s.rv.reservation.any (fun r => RvReservation.wordInside r (s.rv.addr rs1)) = true))
    (hm : Memory.wf s.rv.top s.rv.mem) :
    ((s.rv.scSucceeds (s.rv.addr rs1)).1 = true → RvState.Allows s.rv .store (s.rv.addr rs1) 8 →
      RvCompletes (.rvScD aq rl rd rs2 rs1) s (RvState.ScStored rd rs2 (s.rv.addr rs1) s.rv)) ∧
    ((s.rv.scSucceeds (s.rv.addr rs1)).1 = true → ¬ RvState.Allows s.rv .store (s.rv.addr rs1) 8 →
      Raises (.rvScD aq rl rd rs2 rs1) s (.rvAccessFault .store (s.rv.addr rs1))) ∧
    ((s.rv.scSucceeds (s.rv.addr rs1)).1 = false →
      RvCompletes (.rvScD aq rl rd rs2 rs1) s (RvState.ScFailed rd s.rv)) := by
  have exists64 := rv64A_of h64 hA
  obtain ⟨core, hmem⟩ := s.rv.scSucceeds_state (s.rv.addr rs1)
  have hb : rvScDBody rd rs2 rs1 s.rv = _ := (rvAligned_of ha _).trans (if_neg hs)
  have allowed := s.rv.accessFault_eq_false .store (s.rv.addr rs1) 8 (by decide)
  dsimp only at hb
  refine ⟨fun h1 hf => ?_, fun h1 hf => ?_, fun h1 => ?_⟩
  · rw [if_pos h1, if_neg (Bool.eq_false_iff.1 (allowed.2 hf))] at hb
    exact ⟨_, rvDo_of_ok exists64 hb, RvState.scStored_of core hmem rd rs2 _ hm⟩
  · rw [if_pos h1, if_pos (Bool.of_not_eq_false (mt allowed.1 hf))] at hb
    exact rvDo_of_raises exists64 hb
  · rw [if_neg (Bool.eq_false_iff.1 h1)] at hb
    exact ⟨_, rvDo_of_ok exists64 hb, RvState.scFailed_of core hmem rd h64⟩

/-- amoadd.d at an aligned address: the load's access fault, then the refusal over the reservation, then the store's
access fault (notes/assumptions/41.md). -/
theorem rvAmoaddD_outcomes (hm : Memory.wf s.rv.top s.rv.mem) :
    (RvState.Allows s.rv .load (s.rv.addr rs1) 8 → s.rv.Settled (s.rv.addr rs1) 8 →
      RvState.Allows s.rv .store (s.rv.addr rs1) 8 → RvCompletes (.rvAmoaddD aq rl rd rs2 rs1) s fun q =>
        RvState.Sets rd s.rv ((Memory.read .little s.rv.top 64 s.rv.mem (s.rv.addr rs1)).setWidth s.rv.xlen) q ∧
        Memory.Stored .little s.rv.top s.rv.mem q.mem (s.rv.addr rs1)
          (Memory.read .little s.rv.top 64 s.rv.mem (s.rv.addr rs1) + s.rv.reg 64 rs2) ∧
        (q.reservation = s.rv.reservation ∨ q.reservation = none) ∧
        (s.rv.Disjoint (s.rv.addr rs1) 8 → q.reservation = s.rv.reservation)) ∧
    (¬ RvState.Allows s.rv .load (s.rv.addr rs1) 8 →
      Raises (.rvAmoaddD aq rl rd rs2 rs1) s (.rvAccessFault .load (s.rv.addr rs1))) ∧
    (RvState.Allows s.rv .load (s.rv.addr rs1) 8 → ¬ s.rv.Settled (s.rv.addr rs1) 8 →
      exec (.rvAmoaddD aq rl rd rs2 rs1) s = .refused .rvReservedStore) ∧
    (RvState.Allows s.rv .load (s.rv.addr rs1) 8 → s.rv.Settled (s.rv.addr rs1) 8 →
      ¬ RvState.Allows s.rv .store (s.rv.addr rs1) 8 →
        Raises (.rvAmoaddD aq rl rd rs2 rs1) s (.rvAccessFault .store (s.rv.addr rs1))) := by
  have exists64 := rv64A_of h64 hA
  refine ⟨fun hl hs hf => ?_, fun hl => ?_, fun hl hs => ?_, fun hl hs hf => ?_⟩
  · have core := s.rv.sameCore_stored (s.rv.addr rs1) 8
      (Memory.read .little s.rv.top 64 s.rv.mem (s.rv.addr rs1) + s.rv.reg 64 rs2)
    have stored := s.rv.stored_put (s.rv.addr rs1)
      (Memory.read .little s.rv.top 64 s.rv.mem (s.rv.addr rs1) + s.rv.reg 64 rs2) hm (by decide) (by decide)
    obtain ⟨either, kept⟩ := (s.rv.put (s.rv.addr rs1)
      (Memory.read .little s.rv.top 64 s.rv.mem (s.rv.addr rs1) + s.rv.reg 64 rs2)).afterStore_reservation
        (s.rv.addr rs1) 8
    have written := core.sets_setReg rd (Memory.read .little s.rv.top 64 s.rv.mem (s.rv.addr rs1))
    rw [BitVec.setWidth_eq] at written
    refine ⟨_, rvDo_of_ok exists64 ?_, written, ?_, ?_, ?_⟩
    · rw [rvAmoaddDBody, rvAligned_of ha, s.rv.load_of_allows 64 _ (by decide) hl]
      dsimp only
      rw [s.rv.store_of_allows _ _ (by decide) hs hf]
    · rw [RvState.advance_mem, RvState.setReg_mem, RvState.afterStore_mem]
      exact stored
    · rwa [RvState.advance_reservation, RvState.setReg_reservation]
    · rwa [RvState.advance_reservation, RvState.setReg_reservation]
  · refine rvDo_of_raises exists64 ?_
    rw [rvAmoaddDBody, rvAligned_of ha, s.rv.load_of_not_allows 64 _ (by decide) hl]
  · refine rvDo_of_refuses exists64 ?_
    rw [rvAmoaddDBody, rvAligned_of ha, s.rv.load_of_allows 64 _ (by decide) hl]
    dsimp only
    rw [s.rv.store_of_unsettled _ _ hs]
  · refine rvDo_of_raises exists64 ?_
    rw [rvAmoaddDBody, rvAligned_of ha, s.rv.load_of_allows 64 _ (by decide) hl]
    dsimp only
    rw [s.rv.store_of_not_allows _ _ (by decide) hs hf]

end

/-- Settles O58: the alignment is looked at first; an sc.d then turns on what it makes of the reservation. -/
theorem rvAtomics : Obligations.RvAtomics := by
  unfold Obligations.RvAtomics
  intro s aq rl rd rs1 rs2 i w p a sc amo m word dest succeeds fails hA hm
  have inside : p.reservation.any (fun r => RvReservation.wordInside r a) = true ↔ word :=
    any_wordInside_iff p.reservation a
  refine ⟨fun h => ?lr, fun h64 ha => ?misaligned, fun h64 ha => ?sc, fun h64 ha => rvAmoaddD_outcomes h64 hA ha hm⟩
  case lr =>
    simp only [Prod.mk.injEq] at h
    rcases h with ⟨rfl, rfl⟩ | ⟨h64, rfl, rfl⟩
    · exact rvLoadReserved_outcomes (present := rvA) rfl hA (by decide)
    · exact rvLoadReserved_outcomes (present := rv64A) rfl (rv64A_of h64 hA) (by decide)
  case misaligned =>
    exact ⟨rvDo_of_refuses (rv64A_of h64 hA) (rvAligned_of_not ha _),
      rvDo_of_refuses (rv64A_of h64 hA) (rvAligned_of_not ha _)⟩
  case sc =>
    have outcomes (hs : ¬ (p.params.unsettled = .refuse ∧ word)) :=
      rvScD_outcomes (aq := aq) (rl := rl) (rd := rd) (rs2 := rs2) h64 hA ha
        (fun h => hs ⟨h.1, inside.1 h.2⟩) hm
    have matched (hr : p.reservation = some ⟨a, 8⟩) : ¬ (p.params.unsettled = .refuse ∧ word) := by
      rintro ⟨-, hw⟩
      simp [word, hr] at hw
    have complete (hu : p.params.unsettled = .complete) : ¬ (p.params.unsettled = .refuse ∧ word) := by
      rw [hu]
      exact fun h => nomatch h.1
    have stored (hs : ¬ (p.params.unsettled = .refuse ∧ word)) (hf : RvState.Allows p .store a 8) :
        RvCompletes sc s fun q => succeeds q ∨ fails q := by
      obtain ⟨hstored, -, hfailed⟩ := outcomes hs
      cases h : (p.scSucceeds a).1 with
      | true =>
        obtain ⟨q, hq, h⟩ := hstored h hf
        exact ⟨q, hq, .inl h⟩
      | false =>
        obtain ⟨q, hq, h⟩ := hfailed h
        exact ⟨q, hq, .inr h⟩
    have faulted (hs : ¬ (p.params.unsettled = .refuse ∧ word)) (hf : ¬ RvState.Allows p .store a 8) :
        Raises sc s (.rvAccessFault .store a) ∨ RvCompletes sc s fails := by
      obtain ⟨-, hraised, hfailed⟩ := outcomes hs
      cases h : (p.scSucceeds a).1 with
      | true => exact .inl (hraised h hf)
      | false => exact .inr (hfailed h)
    refine ⟨fun hr hf hmay => ?_, fun hr hf _ => stored (matched hr) hf, fun hr hf hmay => ?_,
      fun hr hf _ => faulted (matched hr) hf, fun hr hw => ?_, fun hw hu => ?_,
      fun _ hu hf => stored (complete hu) hf, fun _ hu hf => faulted (complete hu) hf⟩
    · obtain ⟨hstored, -, -⟩ := outcomes (matched hr)
      exact hstored (RvState.scSucceeds_of_match hr hmay) hf
    · obtain ⟨-, hraised, -⟩ := outcomes (matched hr)
      exact hraised (RvState.scSucceeds_of_match hr hmay) hf
    · obtain ⟨-, -, hfailed⟩ := outcomes fun h => hw h.2
      exact hfailed (RvState.scSucceeds_of_none hr (mt inside.1 hw))
    · exact rvDo_of_refuses (rv64A_of h64 hA) ((rvAligned_of ha _).trans (if_pos ⟨hu, inside.2 hw⟩))

end Sys2Proof.Machine
end

section
/-! PROOFS, memory (spec/20_memory.md R100, R101): what MemRead and MemWrite do byte by byte. -/

namespace Sys2Proof.Machine

/-- A byte of the value that a list of bytes stands for. -/
theorem extractLsb'_valueLE {n k : Nat} (l : List Byte) (hk : k < n) :
    (BitVec.ofNat (8 * n) (valueLE l)).extractLsb' (8 * k) 8 = l.getD k 0#8 := by
  apply BitVec.eq_of_getLsbD_eq
  intro i hi
  have inside : 8 * k + i < 8 * n := by omega
  rw [BitVec.getLsbD_extractLsb', BitVec.getLsbD_ofNat, valueLE_testBit l k i hi]
  simp [hi, inside]

/-- The place in a value of `n` bytes of the byte that lies `j` addresses up. -/
def byteIndex (n j : Nat) : ByteOrder → Nat
  | .little => j
  | .big => n - 1 - j

/-- MemRead puts each byte in its place (spec/20_memory.md R101). -/
theorem Memory.extractLsb'_read (o : ByteOrder) (top : Nat) {n j : Nat} (m : Memory) (a : Nat) (hj : j < n) :
    (Memory.read o top (8 * n) m a).extractLsb' (8 * byteIndex n j o) 8 = Memory.get m ((a + j) % top) := by
  have length : 8 * n / 8 = n := Nat.mul_div_cancel_left n (by decide)
  have byte := Memory.getD_bytes top n m a j hj
  unfold Memory.read
  rw [length]
  cases o with
  | little => exact (extractLsb'_valueLE _ hj).trans byte
  | big =>
    refine (extractLsb'_valueLE _ (by omega : n - 1 - j < n)).trans (Eq.trans ?_ byte)
    rw [List.getD_reverse _ (by rw [Memory.length_bytes]; omega), Memory.length_bytes,
      show n - 1 - (n - 1 - j) = j by omega]

/-- Settles O11: MemRead puts each byte in its place, and what MemWrite wrote reads back. -/
theorem memoryReadWrite : Obligations.MemoryReadWrite := by
  unfold Obligations.MemoryReadWrite
  intro o top n m a hm htop hn
  have length : 8 * n / 8 = n := Nat.mul_div_cancel_left n (by decide)
  refine ⟨fun j hj => ?_, fun v => ⟨fun j hj => ?_, fun b hb => ?_, Memory.wf_write o top htop m a v hm⟩⟩
  · exact (Memory.extractLsb'_read o top m a hj).symm
  · have back : Memory.read o top (8 * n) (Memory.write o top (8 * n) m a v) a = v :=
      Memory.read_write_same o top htop m a v hm (by omega) (by omega)
    have byte := Memory.extractLsb'_read o top (Memory.write o top (8 * n) m a v) a hj
    rw [back] at byte
    exact byte.symm
  · exact Memory.get_write_other o top htop m a b v hm (by rwa [length])

end Sys2Proof.Machine
end

section
/-! PROOFS, P1: what the spec recognises and refuses (spec/30_encoding.md R158; spec/40_ia32.md R298). -/

namespace Sys2Proof.Machine

/-- An opcode that is no prefix, holds no register number and belongs to no family. -/
theorem decode_plain (csD : Bool) {b : Byte} (l : List Byte) (h : b = 0xCA#8 ∨ b = 0xCB#8 ∨ b = 0xF0#8) :
    decode .p1 csD (.bytes (b :: l)) = decodeX86Plain b csD csD l := by
  have sizes : (csD != X86Pfx.none.op) = csD ∧ (csD != X86Pfx.none.addr) = csD := by cases csD <;> decide
  have opcode : decode .p1 csD (.bytes (b :: l)) =
      decodeX86Plain b (csD != X86Pfx.none.op) (csD != X86Pfx.none.addr) l := by
    rcases h with rfl | rfl | rfl <;> rfl
  rw [opcode, sizes.1, sizes.2]

/-- A 16-bit immediate has its low byte first (spec/30_encoding.md R159). -/
theorem bytes16_append (hi lo : Byte) : bytes16 (hi ++ lo) = [lo, hi] := by
  have low : fld (hi ++ lo) 0 8 = lo := BitVec.extractLsb'_append_eq_right
  have high : fld (hi ++ lo) 8 8 = hi := BitVec.extractLsb'_append_eq_left
  rw [bytes16, low, high]

/-- Settles O31: the three bytes are looked up among the opcodes without a register number, and their meanings refuse
in every state. -/
theorem farReturnAndLockRefused : Obligations.FarReturnAndLockRefused := by
  unfold Obligations.FarReturnAndLockRefused
  intro s csD imm lo hi rest
  refine ⟨?far, ?farImm, ?lock, rfl, rfl, rfl⟩
  case far => exact (decode_plain csD rest (by decide)).trans rfl
  case farImm =>
    have immediate := take16_bytes16 (hi ++ lo) rest fun v _ => .ok (Instr.x86RetFarImm v)
    rw [bytes16_append] at immediate
    exact (decode_plain csD (lo :: hi :: rest) (by decide)).trans immediate
  case lock => exact (decode_plain csD rest (by decide)).trans rfl

end Sys2Proof.Machine
end

section
/-! PROOFS, P3 and P5: lwzu and LW (spec/42_powerpc.md R397; spec/44_mips32.md R533; spec/20_memory.md R114, R117,
R118). -/

namespace Sys2Proof.Machine

/-! ### lwzu -/

/-- Settles O44: the form is looked at first, then PPC_DSI; then the word and the address are written. -/
theorem ppcLoadUpdate : Obligations.PpcLoadUpdate := by
  unfold Obligations.PpcLoadUpdate
  intro s rD rA d p ea
  have hexec : exec (.ppcLwzu rD rA d) s = ppcDo (fun _ =>
      if rA = 0 ∨ rA = rD then .error (.refuses .ppcInvalidForm)
      else if inRegions p.params.dsi ea.toNat then .error (.raises (.ppcDsi ea))
      else .ok ((p.setReg rD (p.mem.read .big top32 32 ea.toNat)).setReg rA ea).advance) s := rfl
  refine ⟨fun h0 hD hdsi => ?loads, fun h0 hD hdsi => ?raises, fun h => ?refused⟩
  case loads =>
    have legal : ¬ (rA = 0 ∨ rA = rD) := not_or.2 ⟨h0, hD⟩
    have written (n : BitVec 5) :
        ((p.setReg rD (p.mem.read .big top32 32 ea.toNat)).setReg rA ea).advance.reg n =
          if n = rA then ea else if n = rD then p.mem.read .big top32 32 ea.toNat else p.reg n := by
      rw [← PpcState.reg_setReg, ← PpcState.reg_setReg]
      rfl
    refine ⟨_, hexec.trans (ppcDo_of_ok ((if_neg legal).trans (if_neg ?_))), ?_, ?_, ⟨fun n hn => ?_, rfl, fun _ => rfl⟩,
      rfl, rfl, rfl, rfl, rfl⟩
    · rwa [inRegions_iff]
    · rw [written, if_neg (Ne.symm hD), if_pos rfl]
    · rw [written, if_pos rfl]
    · obtain ⟨hnD, hnA⟩ := List.ne_and_not_mem_of_not_mem_cons hn
      rw [written, if_neg (List.ne_of_not_mem_cons hnA), if_neg hnD]
  case raises =>
    rw [Raises, hexec, ppcDo, if_neg (not_or.2 ⟨h0, hD⟩), if_pos ((inRegions_iff _ _).2 hdsi)]
    rfl
  case refused =>
    rw [hexec, ppcDo, if_pos h]
    rfl

/-! ### LW -/

theorem MipsParams.trapsMisaligned_iff (c : MipsParams) :
    MipsParams.trapsMisaligned c = true ↔ c.release ≠ .r6 ∨ c.misalign = .addressError := by
  unfold MipsParams.trapsMisaligned
  cases c.release <;> cases c.misalign <;> decide

/-- LW, in the order of its checks (spec/44_mips32.md R533). -/
theorem MipsState.loadWord_eq (p : MipsState) (v : Word) :
    p.loadWord v =
      if v.toNat % 4 ≠ 0 ∧ (p.params.release ≠ .r6 ∨ p.params.misalign = .addressError) then
        .error (.raises (.mipsAddressError (some v)))
      else (mipsTranslate p.params.xlate v).map fun a => p.mem.read p.params.order top32 32 a.toNat := by
  unfold MipsState.loadWord
  simp only [ne_eq, low_bits_zero, MipsParams.trapsMisaligned_iff]
  split
  · rfl
  · cases mipsTranslate p.params.xlate v <;> rfl

/-- Settles O51: the loaded word is written, or what stops the load stops the instruction. -/
theorem mipsLoad : Obligations.MipsLoad := by
  unfold Obligations.MipsLoad
  intro s rt base off pa e p va i misaligned
  have hexec : exec i s = mipsDo (fun _ => (p.loadWord va).map fun v => p.setReg rt v) s := by
    change execMipsLw rt off base s = _
    unfold execMipsLw mipsDo
    cases h : s.mips.loadWord (off.signExtend 32 + s.mips.reg base) <;> simp only [p, h] <;> rfl
  have raises {e : Exception} (h : p.loadWord va = .error (.raises e)) : Raises i s e := by
    rw [Raises, hexec, mipsDo, h]
    rfl
  refine ⟨fun hal ht => ?_, fun hmis => ?_, fun hal ht => ?_, fun hx => ?_⟩
  · refine mipsCompletes_setReg hexec ?_
    rw [p.loadWord_eq, if_neg hal, ht]
    rfl
  · exact raises ((p.loadWord_eq va).trans (if_pos hmis))
  · refine raises ?_
    rw [p.loadWord_eq, if_neg hal, ht]
    rfl
  · rw [hx]
    rfl

end Sys2Proof.Machine
end

section
/-! PROOFS, P2: LDR (spec/41_arm.md R350, R352; spec/20_memory.md R110 to R112). -/

namespace Sys2Proof.Machine

/-! ### Addresses -/

theorem ldrWritesBack_iff (mode : ArmIndex) : ldrWritesBack mode = true ↔ mode ≠ .offset := by
  cases mode <;> decide

theorem ldrAddress_eq (mode : ArmIndex) (base indexed : Word) :
    ldrAddress mode base indexed = if mode = .post then base else indexed := by
  cases mode <;> rfl

/-- The word that holds an address (spec/20_memory.md R110). -/
theorem toNat_clear_low_two (v : Word) : (v &&& 0xFFFFFFFC#32).toNat = v.toNat - v.toNat % 4 := by
  rw [clear_low_two, BitVec.toNat_append, BitVec.toNat_zero, Nat.or_zero, Nat.shiftLeft_eq, BitVec.extractLsb'_toNat,
    Nat.shiftRight_eq_div_pow]
  have := v.isLt
  omega

/-- The rotated word (spec/20_memory.md R111). -/
theorem ArmState.loaded_eq (a : ArmState) (v : Word) :
    a.loaded v = (Memory.read a.params.order top32 32 a.mem (v.toNat - v.toNat % 4)).rotateRight
      (8 * (v.toNat % 4)) := by
  have low : (v.extractLsb' 0 2).toNat = v.toNat % 4 := by simp [BitVec.extractLsb'_toNat]
  rw [ArmState.loaded, toNat_clear_low_two, low]

/-! ### What an LDR writes -/

/-- The state after the write-back of an LDR (spec/30_encoding.md R168). -/
def ArmState.wroteBack (a : ArmState) (mode : ArmIndex) (rn : BitVec 4) (indexed : Word) : ArmState :=
  if ldrWritesBack mode then a.setReg rn indexed else a

section
variable (a : ArmState) (mode : ArmIndex) (rn : BitVec 4) (indexed : Word)

theorem ArmState.wroteBack_base (h : mode ≠ .offset) : (a.wroteBack mode rn indexed).reg rn = indexed := by
  rw [ArmState.wroteBack, if_pos ((ldrWritesBack_iff mode).2 h), ArmState.reg_setReg, if_pos rfl]

theorem ArmState.keeps_wroteBack :
    ArmState.Keeps (if mode = .offset then [] else [rn]) a (a.wroteBack mode rn indexed) := by
  cases mode with
  | offset => exact ⟨fun _ _ _ => rfl, rfl, rfl, fun _ => rfl⟩
  | pre | post =>
    exact ⟨fun n _ hn => (a.reg_setReg rn n indexed).trans (if_neg (List.ne_of_not_mem_cons hn)), rfl, rfl,
      fun _ => rfl⟩

@[simp] theorem ArmState.wroteBack_cpsr : (a.wroteBack mode rn indexed).cpsr = a.cpsr := by
  cases mode <;> rfl

/-- With the write-back the program counter moves only in the forms that are refused. -/
theorem ArmState.wroteBack_pc (h : ¬ (mode ≠ .offset ∧ rn = 15#4)) : (a.wroteBack mode rn indexed).pc = a.pc := by
  by_cases hm : mode = .offset
  · rw [hm]
    rfl
  · have other : 15#4 ≠ rn := fun e => h ⟨hm, e.symm⟩
    rw [ArmState.wroteBack, if_pos ((ldrWritesBack_iff mode).2 hm)]
    exact (a.reg_setReg rn 15 indexed).trans (if_neg other)

/-- A Data Abort leaves Rn as it was, or with the write-back made (spec/41_arm.md R352). -/
theorem ArmState.aborted_cases :
    ((a.aborted mode rn indexed).reg rn = a.reg rn ∨ (a.aborted mode rn indexed).reg rn = indexed) ∧
    (∀ n, n ≠ rn → (a.aborted mode rn indexed).reg n = a.reg n) ∧
    (a.aborted mode rn indexed).cpsr = a.cpsr ∧ (a.aborted mode rn indexed).spsr = a.spsr ∧
    Memory.Same a.mem (a.aborted mode rn indexed).mem := by
  unfold ArmState.aborted
  split_ifs
  · exact ⟨.inr ((ArmState.reg_setReg _ rn rn indexed).trans (if_pos rfl)),
      fun n hn => (ArmState.reg_setReg _ rn n indexed).trans (if_neg hn), rfl, rfl, fun _ => rfl⟩
  · exact ⟨.inl rfl, fun _ _ => rfl, rfl, rfl, fun _ => rfl⟩
  · exact ⟨.inl rfl, fun _ _ => rfl, rfl, rfl, fun _ => rfl⟩

end

theorem ArmState.aborted_offset (a : ArmState) (rn : BitVec 4) (indexed : Word) :
    a.aborted .offset rn indexed = a := rfl

section
variable {a : ArmState} {mode : ArmIndex} {rn : BitVec 4} (indexed value : Word) (hrn : ¬ (mode ≠ .offset ∧ rn = 15#4))
include hrn

/-- An LDR to a register other than R15 and the base. -/
theorem ArmState.load_register {rd : BitVec 4} (hrd : rd ≠ 15#4) (hne : ¬ (mode ≠ .offset ∧ rd = rn)) :
    ∃ b, ((a.wroteBack mode rn indexed).setReg rd value).advance = b ∧ b.reg rd = value ∧ b.pc = a.pc + 4 ∧
      (mode ≠ .offset → b.reg rn = indexed) ∧
      ArmState.Keeps (if mode = .offset then [rd] else [rn, rd]) a b ∧ b.cpsr = a.cpsr := by
  obtain ⟨kregs, kspsr, kparams, kmem⟩ := a.keeps_wroteBack mode rn indexed
  have reg (n : BitVec 4) (hn : n ≠ 15#4) : ((a.wroteBack mode rn indexed).setReg rd value).advance.reg n =
      if n = rd then value else (a.wroteBack mode rn indexed).reg n :=
    (ArmState.reg_advance _ n hn).trans (ArmState.reg_setReg _ rd n value)
  have pc : ((a.wroteBack mode rn indexed).setReg rd value).pc = a.pc :=
    (ArmState.reg_setReg _ rd 15 value).trans ((if_neg (Ne.symm hrd)).trans (a.wroteBack_pc mode rn indexed hrn))
  refine ⟨_, rfl, (reg rd hrd).trans (if_pos rfl), ?_, fun hb => ?_, ⟨fun n hn hnds => ?_, kspsr, kparams, kmem⟩, ?_⟩
  · rw [ArmState.pc_advance, pc]
  · rw [reg rn fun e => hrn ⟨hb, e⟩, if_neg fun e => hne ⟨hb, e.symm⟩]
    exact a.wroteBack_base mode rn indexed hb
  · have apart : n ≠ rd ∧ n ∉ (if mode = .offset then [] else [rn]) := by
      split at hnds <;> simp_all
    rw [reg n hn, if_neg apart.1]
    exact kregs n hn apart.2
  · exact a.wroteBack_cpsr mode rn indexed

/-- An LDR to R15 (spec/10_state.md R32). -/
theorem ArmState.load_pc :
    ∃ b, (a.wroteBack mode rn indexed).setReg 15 value = b ∧ b.pc = value ∧ (mode ≠ .offset → b.reg rn = indexed) ∧
      ArmState.Keeps (if mode = .offset then [] else [rn]) a b ∧ b.cpsr = a.cpsr := by
  obtain ⟨kregs, kspsr, kparams, kmem⟩ := a.keeps_wroteBack mode rn indexed
  refine ⟨_, rfl, ArmState.pc_setReg _ value, fun hb => ?_, ⟨fun n hn hnds => ?_, kspsr, kparams, kmem⟩, ?_⟩
  · rw [ArmState.reg_setPc _ _ fun e => hrn ⟨hb, e⟩]
    exact a.wroteBack_base mode rn indexed hb
  · rw [ArmState.reg_setPc _ _ hn]
    exact kregs n hn hnds
  · exact a.wroteBack_cpsr mode rn indexed

end

/-! ### The instruction -/

/-- LDR, in the order of its checks (spec/41_arm.md R350): where its form is legal, its address aligned as ARM_ALIGN_CHECK
asks and free of a Data Abort, the word goes to Rd or to the PC. -/
theorem armLdr_eq (mode : ArmIndex) (up : Bool) (rn rd : BitVec 4) (off : Word) (a : ArmState) {indexed addr : Word}
    (hindexed : indexed = if up then a.readReg rn + off else a.readReg rn - off)
    (haddr : addr = if mode = .post then a.readReg rn else indexed) :
    armLdr mode up rn rd off a =
      if mode ≠ .offset ∧ rd = rn then .error (.refuses .armWritebackRd)
      else if mode ≠ .offset ∧ rn = 15#4 then .error (.refuses .armWritebackPc)
      else if a.params.alignCheck = true ∧ addr.toNat % 4 ≠ 0 then .error (.raises (.armAlignment addr))
      else if InRegion a.params.aborts addr.toNat then
        .error (.raisesLeaving (.armDataAbort addr) (a.aborted mode rn indexed))
      else if rd = 15#4 then (a.wroteBack mode rn indexed).branchTo (a.loaded addr)
      else .ok (((a.wroteBack mode rn indexed).setReg rd (a.loaded addr)).advance) := by
  subst haddr hindexed
  unfold armLdr ArmState.wroteBack ldrIndexed
  simp only [ldrAddress_eq, ldrWritesBack_iff, low_bits_zero, inRegions_iff, ne_eq]

end Sys2Proof.Machine

namespace Sys2Proof
open Machine

/-- Settles O37: one case for each outcome of `armLdr_eq`. -/
theorem armLdr : Obligations.ArmLdr := by
  unfold Obligations.ArmLdr
  intro s c mode up rn rd rm o12 sh i off hp hi base indexed addr back legal aligned word value loaded
  have hexec : exec i s = finish s (fun a => { s with arm := a }) (Machine.armLdr mode up rn rd off s.arm) := by
    simp only [List.mem_cons, Prod.mk.injEq, List.not_mem_nil, or_false] at hi
    rcases hi with ⟨rfl, rfl⟩ | ⟨rfl, rfl⟩
    · exact armDo_of_passes hp
    · exact armDo_of_passes hp
  rw [armLdr_eq mode up rn rd off s.arm (indexed := indexed) (addr := addr) rfl rfl] at hexec
  have notRd (h : legal) : ¬ (mode ≠ .offset ∧ rd = rn) := fun e => h ⟨e.1, .inl e.2⟩
  have notPc (h : legal) : ¬ (mode ≠ .offset ∧ rn = 15#4) := fun e => h ⟨e.1, .inr e.2⟩
  have unaligned : ¬ aligned ↔ s.arm.params.alignCheck = true ∧ addr.toNat % 4 ≠ 0 := Classical.not_imp
  have hvalue : s.arm.loaded addr = value := s.arm.loaded_eq addr
  refine ⟨fun hl ha hab => ?completes, fun hl ha => ?alignment, fun hl ha hab => ?abort, fun hb hrd => ?writebackRd,
    fun hb hrd hrn => ?writebackPc⟩
  case completes =>
    rw [if_neg (notRd hl), if_neg (notPc hl), if_neg (mt unaligned.2 (not_not.2 ha)), if_neg hab, hvalue] at hexec
    refine ⟨fun hrd => ?_, fun hrd hv => ?_, fun hrd hv => ?_⟩
    · obtain ⟨b, hb, hload⟩ := ArmState.load_register indexed value (notPc hl) hrd (notRd hl)
      rw [if_neg hrd, hb] at hexec
      exact ⟨b, hexec, hload⟩
    · obtain ⟨b, hb, hload⟩ := ArmState.load_pc indexed value (notPc hl)
      rw [if_pos hrd, ArmState.branchTo_of_aligned _ hv, hb] at hexec
      exact ⟨b, hexec, hload⟩
    · rw [if_pos hrd, ArmState.branchTo_of_not_aligned _ hv] at hexec
      exact hexec
  case alignment =>
    rw [if_neg (notRd hl), if_neg (notPc hl), if_pos (unaligned.1 ha)] at hexec
    exact hexec
  case abort =>
    rw [if_neg (notRd hl), if_neg (notPc hl), if_neg (mt unaligned.2 (not_not.2 ha)), if_pos hab] at hexec
    refine ⟨fun hb => ?_, fun _ => ⟨_, hexec, s.arm.aborted_cases mode rn indexed⟩⟩
    have hoffset : mode = .offset := not_not.1 hb
    rw [hoffset, ArmState.aborted_offset] at hexec
    exact hexec
  case writebackRd =>
    rw [if_pos ⟨hb, hrd⟩] at hexec
    exact hexec
  case writebackPc =>
    rw [if_neg fun e => hrd e.2, if_pos ⟨hb, hrn⟩] at hexec
    exact hexec

end Sys2Proof
end

section
/-! PROOFS, stored bytes (spec/20_memory.md R109, R127; spec/92_eei_decisions.md D9): the one thing that writes a byte of
P1 or P6 memory remembers its address. This part: P1. -/

namespace Sys2Proof.Machine

/-! ### A memory and its stored addresses -/

/-- From memory `m` with stored addresses `l` to `m'` with `l'`: a byte that changed is at a stored address, and no
address is forgotten. -/
structure Remembers (top : Nat) (m : Memory) (l : StoredSet) (m' : Memory) (l' : StoredSet) : Prop where
  wf : Memory.wf top m → Memory.wf top m'
  changed : Memory.wf top m → ∀ a, Memory.get m' a ≠ Memory.get m a → a ∈ l'
  kept : ∀ a ∈ l, a ∈ l'

theorem Remembers.refl (top : Nat) (m : Memory) (l : StoredSet) : Remembers top m l m l :=
  ⟨id, fun _ _ h => absurd rfl h, fun _ => id⟩

/-- MemWrite, with the addresses that it writes added to the stored ones. -/
theorem Remembers.write {top : Nat} {m m' : Memory} {l l' : StoredSet} (h : Remembers top m l m' l') (ht : 0 < top)
    (o : ByteOrder) (a : Nat) (v : BitVec w) :
    Remembers top m l (m'.write o top w a v) (l'.addRange top a (w / 8)) where
  wf hm := Memory.wf_write o top ht m' a v (h.wf hm)
  changed hm b hb := by
    rw [StoredSet.mem_addRange]
    by_cases hin : ∃ j, j < w / 8 ∧ b = (a + j) % top
    · exact .inr hin
    · have outside : ∀ j, j < w / 8 → b ≠ (a + j) % top := fun j hj e => hin ⟨j, hj, e⟩
      rw [Memory.get_write_other o top ht m' a b v (h.wf hm) outside] at hb
      exact .inl (h.changed hm b hb)
  kept b hb := (StoredSet.mem_addRange ..).2 (.inl (h.kept b hb))

/-! ### P1: the operations -/

/-- P1 went from `k` to `x` and remembers each byte that it changed. -/
abbrev X86State.Since (k x : X86State) : Prop := Remembers top32 k.mem k.stored x.mem x.stored

section
variable {k x : X86State} (hx : k.Since x)
include hx

theorem X86State.Since.congr {y : X86State} (hm : y.mem = x.mem) (hs : y.stored = x.stored) : k.Since y := by
  unfold X86State.Since
  rwa [hm, hs]

theorem X86State.Since.store (a : Word) (v : BitVec w) : k.Since (x.store a v) :=
  Remembers.write hx (by decide) .little a.toNat v

theorem X86State.Since.setSp (v : Word) : k.Since (x.setSp v) := hx.congr (x.setSp_mem v) (x.setSp_stored v)

theorem X86State.Since.countDown : k.Since x.countDown := hx.congr x.countDown_mem x.countDown_stored

theorem X86State.Since.inhibit (b : Bool) : k.Since (x.inhibit b) := hx.congr (x.inhibit_mem b) (x.inhibit_stored b)

theorem X86State.Since.wrapLoc (m : X86Mem) : k.Since (x.wrapLoc m).2 := by
  obtain ⟨d, h⟩ := x.wrapLoc_state m
  exact h ▸ hx.congr rfl rfl

omit hx in
theorem X86State.since_atOpSize {body : Nat → Body X86State} (h : ∀ w, Ensures k.Since (body w)) :
    Ensures k.Since (x.atOpSize body) :=
  ensures_ite (h 32) (h 16)

theorem X86State.Since.writeSeg (g : X86Sreg) (off : Word) (kind : X86Access) (v : BitVec w) :
    Ensures k.Since (x.writeSeg g off kind v) := by
  unfold X86State.writeSeg
  cases x.xseg g off (w / 8) kind with
  | error e => exact ensures_error
  | ok a => exact ensures_ok (hx.store a v)

theorem X86State.Since.writeRM (rm : X86RM) (v : BitVec w) : Ensures k.Since (x.writeRM rm v) := by
  cases rm with
  | reg n => exact ensures_ok (hx.congr rfl rfl)
  | mem m => exact hx.writeSeg _ _ _ v

theorem X86State.Since.checkWriteRM (w : Nat) (rm : X86RM) : Ensures k.Since (x.checkWriteRM w rm) := by
  cases rm with
  | reg n => exact ensures_ok hx
  | mem m =>
    unfold X86State.checkWriteRM
    dsimp only
    cases x.xseg (x.segOf m) (x.ea m) (w / 8) .write with
    | error e => exact ensures_error
    | ok a => exact ensures_ok hx

theorem X86State.Since.push (v : BitVec w) : Ensures k.Since (x.push v) := by
  refine ensures_ite ensures_error ?_
  have stored := hx.writeSeg .ss (x.spPlus (-(BitVec.ofNat 32 (w / 8)))) .stackWrite v
  cases h : x.writeSeg .ss (x.spPlus (-(BitVec.ofNat 32 (w / 8)))) .stackWrite v with
  | error e => exact ensures_error
  | ok y => exact ensures_ok ((stored y h).setSp _)

theorem X86State.Since.pop (w : Nat) : Ensures (fun r => k.Since r.2) (x.pop w) := by
  refine ensures_ite ensures_error ?_
  cases x.readSeg w .ss x.sp .stackRead with
  | error e => exact ensures_error
  | ok v => exact ensures_ok (hx.setSp _)

theorem X86State.Since.guardPush {b : Body X86State} (h : Ensures k.Since b) : Ensures k.Since (x.guardPush b) :=
  ensures_ite (ensures_ok (hx.congr rfl rfl)) h

theorem X86State.Since.jumpNear (target : Word) : Ensures k.Since (x.jumpNear target) :=
  ensures_ite ensures_error (ensures_ok (hx.congr rfl rfl))

theorem X86State.Since.loadSeg (g : X86Sreg) (sel : Half) : Ensures k.Since (x.loadSeg g sel) := by
  have drawn : k.Since (x.segLoad g sel).2 := by
    unfold X86State.segLoad
    split <;> exact hx
  unfold X86State.loadSeg
  refine ensures_ite (ensures_ite (ensures_ok (hx.congr rfl rfl)) ensures_error) ?_
  cases (x.segLoad g sel).1 with
  | raises e => exact ensures_error
  | loaded d => exact ensures_ok (drawn.congr rfl rfl)

end

/-! ### P1: the bodies -/

/-- The flags and the count of drawn values are all that an arithmetic operation changes. -/
def AluOp.SetsFlags (op : AluOp) : Prop :=
  ∀ w x (a b : BitVec w), ∃ f d, (op w x a b).2 = { x with flags := f, draws := d }

theorem addOp_setsFlags : AluOp.SetsFlags addOp := fun _ _ _ _ => ⟨_, _, rfl⟩
theorem adcOp_setsFlags : AluOp.SetsFlags adcOp := fun _ _ _ _ => ⟨_, _, rfl⟩
theorem xorOp_setsFlags : AluOp.SetsFlags xorOp := fun _ _ _ _ => ⟨_, _, rfl⟩

section
variable {w : Nat} {k x : X86State} (hx : k.Since x)
include hx

theorem AluOp.SetsFlags.since {op : AluOp} (hop : op.SetsFlags) (a b : BitVec w) : k.Since (op w x a b).2 := by
  obtain ⟨f, d, h⟩ := hop w x a b
  rw [h]
  exact hx.congr rfl rfl

theorem since_aluToRM {op : AluOp} (hop : op.SetsFlags) (rm : X86RM) (src : BitVec w) :
    Ensures k.Since (aluToRM op w rm src x) := by
  unfold aluToRM
  cases x.readRM w rm with
  | error e => exact ensures_error
  | ok d => exact X86State.Since.writeRM (hop.since hx d src) rm _

theorem since_aluToReg {op : AluOp} (hop : op.SetsFlags) (r : BitVec 3) (rm : X86RM) :
    Ensures k.Since (aluToReg op w r rm x) := by
  unfold aluToReg
  cases x.readRM w rm with
  | error e => exact ensures_error
  | ok b => exact ensures_ok (X86State.Since.congr (hop.since hx _ b) rfl rfl)

theorem since_aluToAcc {op : AluOp} (hop : op.SetsFlags) (v : BitVec w) : Ensures k.Since (aluToAcc op w v x) :=
  ensures_ok (X86State.Since.congr (hop.since hx _ v) rfl rfl)

theorem since_movToReg (r : BitVec 3) (rm : X86RM) : Ensures k.Since (movToReg w r rm x) := by
  unfold movToReg
  cases x.readRM w rm with
  | error e => exact ensures_error
  | ok v => exact ensures_ok (hx.congr rfl rfl)

theorem since_movFromMoffs (off : BitVec 32) : Ensures k.Since (movFromMoffs w off x) := by
  unfold movFromMoffs
  cases x.readSeg w x.moffsSeg (x.moffs off) .read with
  | error e => exact ensures_error
  | ok v => exact ensures_ok (hx.congr rfl rfl)

theorem since_movSelector (rm : X86RM) (sel : Half) : Ensures k.Since (movSelector rm sel x) := by
  cases rm with
  | mem m => exact hx.writeRM (.mem m) sel
  | reg n => exact ensures_ite (ensures_ok (hx.congr rfl rfl)) (ensures_ok (hx.congr rfl rfl))

theorem since_shrdBody (rm : X86RM) (src : BitVec w) (count : Nat) :
    Ensures k.Since (shrdBody w rm src count x) := by
  have drawn (d : Nat) (f : X86Flags) : k.Since { x with draws := d, flags := f } := hx.congr rfl rfl
  unfold shrdBody
  cases x.readRM w rm with
  | error e => exact ensures_error
  | ok d =>
    exact ensures_ite (hx.checkWriteRM w rm)
      (ensures_ite ((drawn _ _).writeRM rm _) ((drawn _ _).writeRM rm _))

theorem since_xchgBody (rm : X86RM) (r : BitVec 3) : Ensures k.Since (xchgBody w rm r x) := by
  unfold xchgBody
  cases x.readRM w rm with
  | error e => exact ensures_error
  | ok t =>
    have written := hx.writeRM rm (x.readReg w r)
    cases h : x.writeRM rm (x.readReg w r) with
    | error e => exact ensures_error
    | ok y => exact ensures_ok (X86State.Since.congr (written y h) rfl rfl)

theorem since_pushSelector (g : X86Sreg) : Ensures k.Since (pushSelector g x) := by
  have drawn : k.Since (x.draw 16).2 := hx.congr rfl rfl
  exact hx.guardPush (ensures_ite (drawn.push _) (hx.push _))

theorem since_popToMem (m : X86Mem) : Ensures k.Since (popToMem w m x) := by
  unfold popToMem
  cases h : x.pop w with
  | error e => exact ensures_error
  | ok r =>
    have popped : k.Since r.2 := hx.pop w r h
    exact ensures_ite ((popped.wrapLoc m).writeSeg _ _ _ _) (popped.writeSeg _ _ _ _)

theorem since_popSelector (g : X86Sreg) : Ensures k.Since (popSelector g x) := by
  refine X86State.since_atOpSize fun w => ?_
  cases h : x.pop w with
  | error e => exact ensures_error
  | ok r => exact X86State.Since.loadSeg (hx.pop w r h) g _

theorem since_loopBody (rel : BitVec 8) (cond : Bool) : Ensures k.Since (loopBody rel cond x) :=
  ensures_ite (hx.countDown.jumpNear _) (ensures_ok hx.countDown)

theorem since_retBody (extra : Word) : Ensures k.Since (retBody extra x) := by
  refine X86State.since_atOpSize fun w => ensures_ite ensures_error (ensures_ite ensures_error ?_)
  cases h : x.pop w with
  | error e => exact ensures_error
  | ok r =>
    have jumped := X86State.Since.jumpNear (hx.pop w r h) (r.1.setWidth 32)
    dsimp only
    cases hz : r.2.jumpNear (r.1.setWidth 32) with
    | error e => exact ensures_error
    | ok z => exact ensures_ok (X86State.Since.setSp (jumped z hz) _)

end

/-! ### P1: the instructions -/

/-- An instruction whose body remembers what it stores. -/
theorem x86Do_since {i : Instr} {body : X86State → Body X86State} {k : X86State} {s : State} (hs : k.Since s.x86)
    (h : ∀ x, k.Since x → Ensures k.Since (body x)) : Nexts (fun t => k.Since t.x86) (x86Do i body s) :=
  nexts_finish_of_ensures (h (s.x86.entered i) (hs.congr rfl rfl)) fun _ hq => hq.congr rfl rfl

section
variable {k : X86State} {s : State} (hs : k.Since s.x86)
include hs

theorem execX86PushRm_since (rm : X86RM) : Nexts (fun t => k.Since t.x86) (execX86PushRm rm s) := by
  refine x86Do_since hs fun x hx => hx.guardPush (X86State.since_atOpSize fun w => ?_)
  cases x.readRM w rm with
  | error e => exact ensures_error
  | ok v => exact hx.push v

theorem execX86PopReg_since (r : BitVec 3) : Nexts (fun t => k.Since t.x86) (execX86PopReg r s) := by
  refine x86Do_since hs fun x hx => X86State.since_atOpSize fun w => ?_
  cases h : x.pop w with
  | error e => exact ensures_error
  | ok y => exact ensures_ok (X86State.Since.congr (hx.pop w y h) rfl rfl)

theorem execX86PopSs_since : Nexts (fun t => k.Since t.x86) (execX86PopSs s) := by
  refine x86Do_since hs fun x hx => ?_
  cases h : popSelector .ss x with
  | error e => exact ensures_error
  | ok y => exact ensures_ok (X86State.Since.inhibit (since_popSelector hx .ss y h) _)

theorem execX86MovRmSreg_since (rm : X86RM) (sr : BitVec 3) :
    Nexts (fun t => k.Since t.x86) (execX86MovRmSreg rm sr s) := by
  refine x86Do_since hs fun x hx => ?_
  cases sregOf sr with
  | none => exact ensures_error
  | some g => exact since_movSelector hx rm _

theorem execX86MovSregRm_since (sr : BitVec 3) (rm : X86RM) :
    Nexts (fun t => k.Since t.x86) (execX86MovSregRm sr rm s) := by
  refine x86Do_since hs fun x hx => ?_
  cases sregOf sr with
  | none => exact ensures_error
  | some g =>
    refine ensures_ite ensures_error ?_
    cases x.readRM 16 rm with
    | error e => exact ensures_error
    | ok v => exact hx.loadSeg g v

end

/-- A byte that modifies an instruction changes neither memory nor the stored addresses. -/
theorem x86Run_since {i : Instr} {k : X86State} {s : State} (hs : k.Since s.x86)
    (ih : i.part = .p1 → ∀ s : State, k.Since s.x86 → Nexts (fun t => k.Since t.x86) (exec i s)) (p : X86Pfx) :
    Nexts (fun t => k.Since t.x86) (x86Run i (s.withPfx p)) := by
  rw [x86Run_eq]
  split
  · exact ih ‹_› (s.withPfx p) (hs.congr rfl rfl)
  · exact nexts_refused

/-- P1: an instruction, behind any bytes that modify it, remembers what it stores. -/
theorem exec_since_p1 {i : Instr} (h : i.part = .p1) {k : X86State} {s : State} (hs : k.Since s.x86) :
    Nexts (fun t => k.Since t.x86) (exec i s) := by
  induction i generalizing s <;> dsimp only [exec]
  case x86PushRm rm => exact execX86PushRm_since hs rm
  case x86PushReg | x86PushImm8 | x86PushImm =>
    exact x86Do_since hs fun x hx => hx.guardPush (X86State.since_atOpSize fun _ => hx.push _)
  case x86PushCs | x86PushSs | x86PushDs | x86PushEs | x86PushFs | x86PushGs =>
    exact x86Do_since hs fun x hx => since_pushSelector hx _
  case x86AddAlImm8 | x86AdcAlImm8 | x86XorAlImm8 =>
    exact x86Do_since hs fun x hx => since_aluToAcc hx (fun _ _ _ _ => ⟨_, _, rfl⟩) _
  case x86AddAxImm | x86AdcAxImm | x86XorAxImm =>
    exact x86Do_since hs fun x hx => X86State.since_atOpSize fun _ =>
      since_aluToAcc hx (fun _ _ _ _ => ⟨_, _, rfl⟩) _
  case x86AddRm8Imm8 | x86AddRm8R8 | x86AdcRm8Imm8 | x86AdcRm8R8 | x86XorRm8Imm8 | x86XorRm8R8 =>
    exact x86Do_since hs fun x hx => since_aluToRM hx (fun _ _ _ _ => ⟨_, _, rfl⟩) _ _
  case x86AddRmImm | x86AddRmImm8 | x86AddRmR | x86AdcRmImm | x86AdcRmImm8 | x86AdcRmR | x86XorRmImm | x86XorRmImm8 |
      x86XorRmR =>
    exact x86Do_since hs fun x hx => X86State.since_atOpSize fun _ =>
      since_aluToRM hx (fun _ _ _ _ => ⟨_, _, rfl⟩) _ _
  case x86AddR8Rm8 | x86AdcR8Rm8 | x86XorR8Rm8 =>
    exact x86Do_since hs fun x hx => since_aluToReg hx (fun _ _ _ _ => ⟨_, _, rfl⟩) _ _
  case x86AddRRm | x86AdcRRm | x86XorRRm =>
    exact x86Do_since hs fun x hx => X86State.since_atOpSize fun _ =>
      since_aluToReg hx (fun _ _ _ _ => ⟨_, _, rfl⟩) _ _
  case x86MovRm8R8 | x86MovRm8Imm8 => exact x86Do_since hs fun x hx => hx.writeRM _ _
  case x86MovRmR | x86MovRmImm => exact x86Do_since hs fun x hx => X86State.since_atOpSize fun _ => hx.writeRM _ _
  case x86MovR8Rm8 => exact x86Do_since hs fun x hx => since_movToReg hx _ _
  case x86MovRRm => exact x86Do_since hs fun x hx => X86State.since_atOpSize fun _ => since_movToReg hx _ _
  case x86MovRmSreg rm sr => exact execX86MovRmSreg_since hs rm sr
  case x86MovSregRm sr rm => exact execX86MovSregRm_since hs sr rm
  case x86MovAlMoffs => exact x86Do_since hs fun x hx => since_movFromMoffs hx _
  case x86MovAxMoffs => exact x86Do_since hs fun x hx => X86State.since_atOpSize fun _ => since_movFromMoffs hx _
  case x86MovMoffsAl => exact x86Do_since hs fun x hx => hx.writeSeg _ _ _ _
  case x86MovMoffsAx => exact x86Do_since hs fun x hx => X86State.since_atOpSize fun _ => hx.writeSeg _ _ _ _
  case x86MovR8Imm8 => exact x86Do_since hs fun x hx => ensures_ok (hx.congr rfl rfl)
  case x86MovRImm =>
    exact x86Do_since hs fun x hx => X86State.since_atOpSize fun _ => ensures_ok (hx.congr rfl rfl)
  case x86Loop | x86Loope | x86Loopne => exact x86Do_since hs fun x hx => since_loopBody hx _ _
  case x86ShrdImm | x86ShrdCl =>
    exact x86Do_since hs fun x hx => X86State.since_atOpSize fun _ => since_shrdBody hx _ _ _
  case x86XchgAxR | x86XchgRmR =>
    exact x86Do_since hs fun x hx => X86State.since_atOpSize fun _ => since_xchgBody hx _ _
  case x86XchgRm8R8 => exact x86Do_since hs fun x hx => since_xchgBody hx _ _
  case x86PopMem => exact x86Do_since hs fun x hx => X86State.since_atOpSize fun _ => since_popToMem hx _
  case x86PopReg r => exact execX86PopReg_since hs r
  case x86PopDs | x86PopEs | x86PopFs | x86PopGs => exact x86Do_since hs fun x hx => since_popSelector hx _
  case x86PopSs => exact execX86PopSs_since hs
  case x86Ret | x86RetImm => exact x86Do_since hs fun x hx => since_retBody hx _
  case x86OpSize i ih | x86AddrSize i ih | x86SegCs i ih | x86SegSs i ih | x86SegDs i ih | x86SegEs i ih |
      x86SegFs i ih | x86SegGs i ih =>
    exact nexts_ite nexts_refused (x86Run_since hs (fun h s hs => ih h hs) _)
  case x86RetFar | x86RetFarImm | x86Lock => exact nexts_refused
  all_goals cases h

end Sys2Proof.Machine
end

section
/-! PROOFS, stored bytes, continued: P6, the fetch, and the obligation. -/

namespace Sys2Proof.Machine

/-! ### P6: the bodies -/

/-- P6 went from `k` to `p` and remembers each byte that it changed. -/
abbrev RvState.Since (k p : RvState) : Prop := Remembers k.top k.mem k.stored p.mem p.stored

theorem RvState.since_refl (p : RvState) : p.Since p := Remembers.refl p.top p.mem p.stored

section
variable {k p : RvState} (hp : k.Since p)
include hp

theorem RvState.Since.congr {q : RvState} (hm : q.mem = p.mem) (hs : q.stored = p.stored) : k.Since q := by
  unfold RvState.Since
  rwa [hm, hs]

theorem RvState.Since.setReg (i : BitVec 5) (v : BitVec n) : k.Since (p.setReg i v) :=
  hp.congr (p.setReg_mem i v) (p.setReg_stored i v)

/-- A store, in the address space of the start. -/
theorem RvState.Since.put (hk : p.params = k.params) (a : Nat) (v : BitVec w) : k.Since (p.put a v) := by
  have top : p.top = k.top := by rw [RvState.top, RvState.xlen, hk]; rfl
  unfold RvState.Since RvState.put
  rw [top]
  exact Remembers.write hp (Nat.two_pow_pos _) .little a v

theorem RvState.Since.afterStore (a n : Nat) : k.Since (p.afterStore a n) :=
  hp.congr (p.afterStore_mem a n) (p.afterStore_stored a n)

theorem since_rvWrite (rd : BitVec 5) (v : BitVec n) : Ensures k.Since (rvWrite rd v p) := ensures_ok (hp.setReg rd v)

theorem RvState.Since.jump (v : DWord) : Ensures k.Since (p.jump v) :=
  ensures_ite (ensures_ok (hp.congr rfl rfl)) ensures_error

end

section
variable (p : RvState)

theorem RvState.since_store (a : Nat) (v : BitVec w) : Ensures p.Since (p.store a v) :=
  ensures_ite ensures_error
    (ensures_ite ensures_error (ensures_ok (RvState.Since.afterStore (p.since_refl.put rfl a v) a (w / 8))))

theorem since_rvLoad (w : Nat) (ext : (n : Nat) → BitVec w → BitVec n) (rd : BitVec 5) (off : BitVec 12)
    (rs1 : BitVec 5) : Ensures p.Since (rvLoad w ext rd off rs1 p) := by
  unfold rvLoad
  cases p.load w (p.ea rs1 off) with
  | error e => exact ensures_error
  | ok v => exact since_rvWrite p.since_refl rd _

theorem since_rvBneBody (rs1 rs2 : BitVec 5) (off : BitVec 12) : Ensures p.Since (rvBneBody rs1 rs2 off p) :=
  ensures_ite (p.since_refl.jump _) (ensures_ok p.since_refl)

theorem since_rvLoadReserved (w : Nat) (rd rs1 : BitVec 5) : Ensures p.Since (rvLoadReserved w rd rs1 p) := by
  refine ensures_ite ?_ ensures_error
  cases p.load w (p.addr rs1) with
  | error e => exact ensures_error
  | ok v => exact ensures_ok (RvState.Since.congr (p.since_refl.setReg rd _) rfl rfl)

theorem RvState.scSucceeds_stored (a : Nat) : (p.scSucceeds a).2.stored = p.stored := by
  unfold RvState.scSucceeds
  split
  · rfl
  · split_ifs <;> rfl

theorem since_rvScDBody (rd rs2 rs1 : BitVec 5) : Ensures p.Since (rvScDBody rd rs2 rs1 p) := by
  obtain ⟨core, mem⟩ := p.scSucceeds_state (p.addr rs1)
  have tried : p.Since (p.scSucceeds (p.addr rs1)).2 := p.since_refl.congr mem (p.scSucceeds_stored _)
  refine ensures_ite (ensures_ite ensures_error
    (ensures_ite (ensures_ite ensures_error (ensures_ok ?_)) (ensures_ok ?_))) ensures_error
  · exact RvState.Since.congr (RvState.Since.setReg (tried.put core.params _ (p.reg 64 rs2)) rd 0#64) rfl rfl
  · have drawn : p.Since ((p.scSucceeds (p.addr rs1)).2.draw 64).2 := tried.congr rfl rfl
    exact RvState.Since.congr (drawn.setReg rd _) rfl rfl

theorem since_rvAmoaddDBody (rd rs2 rs1 : BitVec 5) : Ensures p.Since (rvAmoaddDBody rd rs2 rs1 p) := by
  refine ensures_ite ?_ ensures_error
  cases p.load 64 (p.addr rs1) with
  | error e => exact ensures_error
  | ok t =>
    dsimp only
    cases h : p.store (p.addr rs1) (t + p.reg 64 rs2) with
    | error e => exact ensures_error
    | ok q => exact ensures_ok (RvState.Since.setReg (p.since_store _ _ q h) rd t)

theorem since_rvReturnMachine : Ensures p.Since (rvReturnMachine p) := by
  refine ensures_ite ensures_error ?_
  cases p.modeOf p.mpp with
  | none => exact ensures_error
  | some m =>
    dsimp only
    cases h : p.jump p.mepc with
    | error e => exact ensures_error
    | ok q => exact ensures_ok (p.since_refl.jump p.mepc q h)

theorem since_rvReturnSupervisor : Ensures p.Since (rvReturnSupervisor p) := by
  refine ensures_ite ensures_error ?_
  cases h : p.jump p.sepc with
  | error e => exact ensures_error
  | ok q => exact ensures_ok (p.since_refl.jump p.sepc q h)

end

/-! ### P6: the instructions -/

theorem rvDo_since {present : RvParams → Bool} {len : DWord} {body : RvState → Body RvState} {s : State}
    (h : Ensures s.rv.Since (body s.rv)) : Nexts (fun t => s.rv.Since t.rv) (rvDo present len body s) :=
  nexts_ite (nexts_finish_of_ensures h fun q hq => hq.congr (q.advance_mem len) (q.advance_stored len)) nexts_refused

theorem rvJumpDo_since {present : RvParams → Bool} {body : RvState → Body RvState} {s : State}
    (h : Ensures s.rv.Since (body s.rv)) : Nexts (fun t => s.rv.Since t.rv) (rvJumpDo present body s) :=
  nexts_ite (nexts_finish_of_ensures h fun _ hq => hq) nexts_refused

/-- P6: an instruction remembers what it stores. -/
theorem exec_since_p6 {i : Instr} (h : i.part = .p6) (s : State) :
    Nexts (fun t => s.rv.Since t.rv) (exec i s) := by
  have writes (rd : BitVec 5) {n : Nat} (v : BitVec n) : Ensures s.rv.Since (rvWrite rd v s.rv) :=
    since_rvWrite s.rv.since_refl rd v
  have counted (d : Nat) (c : DWord) : s.rv.Since { s.rv with draws := d, cycle := c } :=
    s.rv.since_refl.congr rfl rfl
  cases i <;> dsimp only [exec]
  case rvLh | rvLw | rvLd | rvLhu | rvLwu => exact rvDo_since (since_rvLoad s.rv _ _ _ _ _)
  case rvSb | rvSh | rvSw => exact rvDo_since (s.rv.since_store _ _)
  case rvSlli | rvSrli | rvSlliw | rvSrliw => exact rvDo_since (ensures_ite (writes _ _) ensures_error)
  case rvRemw | rvRemuw => exact rvDo_since (ensures_ite ensures_error (writes _ _))
  case rvAddi | rvSlti | rvSltiu | rvOri | rvAddiw | rvAdd | rvSll | rvSlt | rvSltu | rvSrl | rvOr | rvLui | rvAddw |
      rvSllw | rvSraw | rvNeg | rvNegw | rvNot | rvNop | rvLi | rvCAdd | rvCAddi | rvCAddi16sp | rvCAddi4spn =>
    exact rvDo_since (writes _ _)
  case rvRdcycle => exact rvDo_since (since_rvWrite (counted _ _) _ _)
  case rvLrW | rvLrD => exact rvDo_since (since_rvLoadReserved s.rv _ _ _)
  case rvScD => exact rvDo_since (since_rvScDBody s.rv _ _ _)
  case rvAmoaddD => exact rvDo_since (since_rvAmoaddDBody s.rv _ _ _)
  case rvBne | rvBnez => exact rvJumpDo_since (since_rvBneBody s.rv _ _ _)
  case rvMret => exact rvJumpDo_since (since_rvReturnMachine s.rv)
  case rvSret => exact rvJumpDo_since (since_rvReturnSupervisor s.rv)
  case rvRet => exact rvJumpDo_since (s.rv.since_refl.jump _)
  all_goals cases h

/-- An instruction of any part remembers what it stores in P1 and in P6: it changes its own part only. -/
theorem exec_since (i : Instr) (s : State) :
    Nexts (fun t => s.x86.Since t.x86 ∧ s.rv.Since t.rv) (exec i s) := by
  intro t h
  have x86 : s.x86.Since s.x86 := Remembers.refl top32 s.x86.mem s.x86.stored
  have rv := s.rv.since_refl
  have changes := exec_changesOnly i s t h
  cases hp : i.part <;> rw [hp] at changes <;> obtain ⟨y, rfl, -⟩ := changes
  case p1 => exact ⟨exec_since_p1 hp x86 _ h, rv⟩
  case p6 => exact ⟨x86, exec_since_p6 hp s _ h⟩
  all_goals exact ⟨x86, rv⟩

/-! ### The fetch of a stored byte -/

/-- P1: a byte that the instruction needs and that the program has stored to (spec/20_memory.md R109). -/
theorem X86State.fetch_of_stored {x : X86State} {n : Nat} (hn : n < x86MaxLength)
    (hf : ∀ j, j < n → x.Fetchable (x.eip + BitVec.ofNat 32 j))
    (hd : decode .p1 x.segs.cs.desc.big (.bytes ((List.range n).map fun j =>
      Memory.get x.mem (x.codeAt (x.eip + BitVec.ofNat 32 j)))) = .error .short)
    (ha : x.Allows .cs (x.eip + BitVec.ofNat 32 n) 1 .fetch)
    (hs : x.codeAt (x.eip + BitVec.ofNat 32 n) ∈ x.stored) : x.fetch = .error (.refuses .fetchOfStored) := by
  have stop := x.codeBytes_of_stop n x86MaxLength x.eip _ hn hf (x.codeByte_of_stored _ ha hs)
  unfold X86State.fetch
  dsimp only
  rw [stop, hd]

theorem RvState.codeStored_iff (p : RvState) (n : Nat) :
    p.codeStored n = true ↔ ∃ j, j < n ∧ (p.pc.toNat + j) % p.top ∈ p.stored := by
  rw [RvState.codeStored, anyByte_eq_true]
  simp

/-- P6: a byte of the halfword at pc, or of the word where the low bits ask for one (spec/20_memory.md R127). -/
theorem RvState.fetch_of_stored {p : RvState} {j : Nat}
    (hj : j < 2 ∨ j < 4 ∧ (Memory.read .little p.top 16 p.mem p.pc.toNat).extractLsb' 0 2 = 3#2)
    (hs : (p.pc.toNat + j) % p.top ∈ p.stored) : p.fetch = .error (.refuses .fetchOfStored) := by
  unfold RvState.fetch
  dsimp only
  by_cases h2 : p.codeStored 2 = true
  · rw [if_pos h2]
  · have past : ¬ j < 2 := fun h => h2 ((p.codeStored_iff 2).2 ⟨j, h, hs⟩)
    obtain ⟨h4, low⟩ := hj.resolve_left past
    rw [if_neg h2, if_neg (not_not.2 low), if_pos ((p.codeStored_iff 4).2 ⟨j, h4, hs⟩)]

theorem step_of_fetch_refused {s : State} {r : Refusal} (hb : beforeFetch s = none)
    (hf : fetch s = .error (.refuses r)) : step s = .refused r := by
  unfold step
  rw [hb, hf]
  rfl

/-- Settles O10: every body remembers what it stores, and the fetch looks at what is remembered. -/
theorem changedBytesAreStored : Obligations.ChangedBytesAreStored := by
  unfold Obligations.ChangedBytesAreStored
  refine ⟨fun i s t h => ?_, fun s => ⟨fun n hp hsd hn hf hd ha hs => ?_, fun j hp hj hs => ?_⟩⟩
  · obtain ⟨x86, rv⟩ := exec_since i s t h
    exact ⟨x86.changed, rv.changed, x86.kept, rv.kept⟩
  · refine step_of_fetch_refused ?_ ?_
    · rw [beforeFetch, hp]
      exact if_neg (Bool.eq_false_iff.1 hsd)
    · rw [fetch, hp]
      exact X86State.fetch_of_stored hn hf hd ha hs
  · refine step_of_fetch_refused ?_ ?_
    · rw [beforeFetch, hp]
    · rw [fetch, hp]
      exact RvState.fetch_of_stored hj hs

end Sys2Proof.Machine
end

section
/-! PROOFS, P1: a refused access ends its instruction (spec/20_memory.md R105, R106; spec/40_ia32.md R250 to R297;
spec/60_exceptions.md R681). -/

namespace Sys2Proof.Machine

/-! ### From a body to a step -/

/-- The body of the P1 instruction `i` answers `b` in state `s`. -/
def X86Answers (i : Instr) (s : State) (b : Body X86State) : Prop := exec i s = finish s s.withX86 b

theorem X86Answers.raises {i : Instr} {s : State} {b : Body X86State} {e : X86Exc} (h : X86Answers i s b)
    (hb : b = .error (.raises (.x86 e))) : Raises i s (.x86 e) := by
  subst hb
  exact h

theorem X86Answers.refused {i : Instr} {s : State} {b : Body X86State} {r : Refusal} (h : X86Answers i s b)
    (hb : b = .error (.refuses r)) : exec i s = .refused r := by
  subst hb
  exact h

/-- A form of width `OperandSize`. -/
theorem X86Answers.sized {i : Instr} {s : State} {body : X86State → Nat → Body X86State}
    (h : exec i s = x86Do i (fun x => x.atOpSize (body x)) s) :
    X86Answers i s (body (s.x86.entered i) s.x86.opSize) := by
  rw [X86Answers, h, x86Do, X86State.atOpSize_eq, X86State.entered_opSize]

/-- A PUSH of width `OperandSize` with stack space. -/
theorem X86Answers.guarded {i : Instr} {s : State} {body : X86State → Nat → Body X86State}
    (h : exec i s = x86Do i (fun x => x.guardPush (x.atOpSize (body x))) s) (hx : ¬ s.x86.Exhausted) :
    X86Answers i s (body (s.x86.entered i) s.x86.opSize) := by
  rw [X86Answers, h, x86Do, (s.x86.entered i).guardPush_of _ hx, X86State.atOpSize_eq, X86State.entered_opSize]

/-! ### Memory operands -/

/-- Memory operands lie at the same place, and X86_SEG answers the same for them. -/
structure X86State.SameOperands (x y : X86State) : Prop where
  view : y.view = x.view
  params : y.params = x.params
  alignCheck : y.alignCheck = x.alignCheck
  gpr : y.gpr = x.gpr
  pfx : y.pfx = x.pfx

section
variable {x y : X86State} (hs : X86State.SameOperands x y)
include hs

theorem X86State.SameOperands.xseg (m : X86Mem) (n : Nat) (kind : X86Access) :
    y.xseg (y.segOf m) (y.ea m) n kind = x.xseg (x.segOf m) (x.ea m) n kind := by
  have seg : y.segOf m = x.segOf m := by rw [X86State.segOf, X86State.segOf, hs.pfx]
  have ea : y.ea m = x.ea m := by
    cases m <;> simp [X86State.ea, X86State.indexValue, X86State.sum16, X86State.readReg, X86State.gpr32, hs.gpr]
  rw [seg, ea, X86State.xseg_congr hs.view hs.params hs.alignCheck]

variable {w : Nat} {m : X86Mem} {e : X86Exc}

theorem X86State.SameOperands.readRM_of_faults (h : x.xseg (x.segOf m) (x.ea m) (w / 8) .read = .error e) :
    y.readRM w (.mem m) = .error (.raises (.x86 e)) :=
  y.readSeg_of_faults w _ _ _ e ((hs.xseg m (w / 8) .read).trans h)

theorem X86State.SameOperands.writeRM_of_faults (v : BitVec w)
    (h : x.xseg (x.segOf m) (x.ea m) (w / 8) .write = .error e) :
    y.writeRM (.mem m) v = .error (.raises (.x86 e)) :=
  y.writeSeg_of_faults _ _ _ v e ((hs.xseg m (w / 8) .write).trans h)

end

theorem X86State.sameOperands_refl (x : X86State) : X86State.SameOperands x x := ⟨rfl, rfl, rfl, rfl, rfl⟩

theorem X86State.sameOperands_entered (x : X86State) (i : Instr) : X86State.SameOperands x (x.entered i) :=
  ⟨rfl, rfl, rfl, rfl, rfl⟩

/-- Flags and drawn values place no operand. -/
theorem X86State.sameOperands_draws (x : X86State) (f : X86Flags) (d : Nat) :
    X86State.SameOperands x { x with flags := f, draws := d } := ⟨rfl, rfl, rfl, rfl, rfl⟩

/-- `b`, an answer in state `x`, ends with what stops the read of `w` bits at `m`, and after that read with what stops
the write there. -/
structure ChecksUpdate (w : Nat) (m : X86Mem) (x : X86State) (b : Body X86State) : Prop where
  read : ∀ e, x.readRM w (.mem m) = .error e → b = .error e
  write : ∀ v e, x.readRM w (.mem m) = .ok v → x.xseg (x.segOf m) (x.ea m) (w / 8) .write = .error e →
    b = .error (.raises (.x86 e))

section
variable {w : Nat} (m : X86Mem) (x : X86State)

theorem aluToRM_checksUpdate {op : AluOp} (hop : op.SetsFlags) (src : BitVec w) :
    ChecksUpdate w m x (aluToRM op w (.mem m) src x) where
  read e h := by rw [aluToRM, h]
  write v e hr hw := by
    obtain ⟨f, d, frame⟩ := hop w x v src
    rw [aluToRM, hr]
    dsimp only
    rw [frame, (x.sameOperands_draws f d).writeRM_of_faults _ hw]

theorem shrdBody_checksUpdate (src : BitVec w) (count : Nat) :
    ChecksUpdate w m x (shrdBody w (.mem m) src count x) where
  read e h := by rw [shrdBody, h]
  write v e hr hw := by
    rw [shrdBody, hr]
    dsimp only
    split_ifs
    · rw [X86State.checkWriteRM, hw]
    · exact (x.sameOperands_draws _ _).writeRM_of_faults _ hw
    · exact (x.sameOperands_draws _ _).writeRM_of_faults _ hw

theorem xchgBody_checksUpdate (r : BitVec 3) : ChecksUpdate w m x (xchgBody w (.mem m) r x) where
  read e h := by rw [xchgBody, h]
  write v e hr hw := by
    rw [xchgBody, hr]
    dsimp only
    rw [x.sameOperands_refl.writeRM_of_faults _ hw]

theorem aluToReg_of_read {op : AluOp} {r : BitVec 3} {e : Stop X86State} (h : x.readRM w (.mem m) = .error e) :
    aluToReg op w r (.mem m) x = .error e := by rw [aluToReg, h]

theorem movToReg_of_read {r : BitVec 3} {e : Stop X86State} (h : x.readRM w (.mem m) = .error e) :
    movToReg w r (.mem m) x = .error e := by rw [movToReg, h]

end

/-- The instruction `i` ends with what stops the read of `w` bits at `m`, and after that read with what stops the write
there. -/
structure FaultsOnUpdate (i : Instr) (s : State) (w : Nat) (m : X86Mem) : Prop where
  read : ∀ e, s.x86.xseg (s.x86.segOf m) (s.x86.ea m) (w / 8) .read = .error e → Raises i s (.x86 e)
  write : ∀ e, s.x86.Reaches w (.mem m) .read →
    s.x86.xseg (s.x86.segOf m) (s.x86.ea m) (w / 8) .write = .error e → Raises i s (.x86 e)

/-- What stops the read of a memory operand stops an instruction that begins with it. -/
theorem X86Answers.raises_of_read {i : Instr} {s : State} {b : Body X86State} {w : Nat} {m : X86Mem} {e : X86Exc}
    (h : X86Answers i s b) (hb : ∀ e, (s.x86.entered i).readRM w (.mem m) = .error e → b = .error e)
    (hr : s.x86.xseg (s.x86.segOf m) (s.x86.ea m) (w / 8) .read = .error e) : Raises i s (.x86 e) :=
  h.raises (hb _ ((s.x86.sameOperands_entered i).readRM_of_faults hr))

theorem X86Answers.faultsOnUpdate {i : Instr} {s : State} {b : Body X86State} {w : Nat} {m : X86Mem}
    (h : X86Answers i s b) (hb : ChecksUpdate w m (s.x86.entered i) b) : FaultsOnUpdate i s w m where
  read _ hr := h.raises_of_read hb.read hr
  write e hr hw := h.raises (hb.write _ e (readRM_entered i s w (.mem m) hr)
    (((s.x86.sameOperands_entered i).xseg m (w / 8) .write).trans hw))

section
variable (s : State) (m : X86Mem) (r : BitVec 3) (i8 : BitVec 8) (i32 : BitVec 32)

/-- The forms that read and then write a byte of memory. -/
def updates8 : List Instr :=
  [.x86AddRm8Imm8 (.mem m) i8, .x86AddRm8R8 (.mem m) r, .x86AdcRm8Imm8 (.mem m) i8, .x86AdcRm8R8 (.mem m) r,
    .x86XorRm8Imm8 (.mem m) i8, .x86XorRm8R8 (.mem m) r, .x86XchgRm8R8 (.mem m) r]

/-- The forms of width `OperandSize` that read and then write memory. -/
def updatesSized : List Instr :=
  [.x86AddRmImm (.mem m) i32, .x86AddRmImm8 (.mem m) i8, .x86AddRmR (.mem m) r, .x86AdcRmImm (.mem m) i32,
    .x86AdcRmImm8 (.mem m) i8, .x86AdcRmR (.mem m) r, .x86XorRmImm (.mem m) i32, .x86XorRmImm8 (.mem m) i8,
    .x86XorRmR (.mem m) r, .x86XchgRmR (.mem m) r, .x86ShrdImm (.mem m) r i8, .x86ShrdCl (.mem m) r]

theorem faultsOnUpdate_of_updates8 {i : Instr} (hi : i ∈ updates8 m r i8) : FaultsOnUpdate i s 8 m := by
  have alu {i : Instr} {op : AluOp} {src : X86State → Byte}
      (h : exec i s = x86Do i (fun x => aluToRM op 8 (.mem m) (src x) x) s) (hop : op.SetsFlags) :
      FaultsOnUpdate i s 8 m :=
    X86Answers.faultsOnUpdate h (aluToRM_checksUpdate m _ hop _)
  simp only [updates8, List.mem_cons, List.not_mem_nil, or_false] at hi
  rcases hi with rfl | rfl | rfl | rfl | rfl | rfl | rfl
  · exact alu (src := fun _ => i8) rfl addOp_setsFlags
  · exact alu (src := fun x => x.readReg 8 r) rfl addOp_setsFlags
  · exact alu (src := fun _ => i8) rfl adcOp_setsFlags
  · exact alu (src := fun x => x.readReg 8 r) rfl adcOp_setsFlags
  · exact alu (src := fun _ => i8) rfl xorOp_setsFlags
  · exact alu (src := fun x => x.readReg 8 r) rfl xorOp_setsFlags
  · exact X86Answers.faultsOnUpdate rfl (xchgBody_checksUpdate m _ r)

theorem faultsOnUpdate_of_updatesSized {i : Instr} (hi : i ∈ updatesSized m r i8 i32) :
    FaultsOnUpdate i s s.x86.opSize m := by
  have alu {i : Instr} {op : AluOp} (src : (w : Nat) → X86State → BitVec w)
      (h : exec i s = x86Do i (fun x => x.atOpSize fun w => aluToRM op w (.mem m) (src w x) x) s)
      (hop : op.SetsFlags) : FaultsOnUpdate i s s.x86.opSize m :=
    X86Answers.faultsOnUpdate (X86Answers.sized h) (aluToRM_checksUpdate m _ hop _)
  simp only [updatesSized, List.mem_cons, List.not_mem_nil, or_false] at hi
  rcases hi with rfl | rfl | rfl | rfl | rfl | rfl | rfl | rfl | rfl | rfl | rfl | rfl
  · exact alu (fun w _ => immOp w i32) rfl addOp_setsFlags
  · exact alu (fun w _ => immSext w i8) rfl addOp_setsFlags
  · exact alu (fun w x => x.readReg w r) rfl addOp_setsFlags
  · exact alu (fun w _ => immOp w i32) rfl adcOp_setsFlags
  · exact alu (fun w _ => immSext w i8) rfl adcOp_setsFlags
  · exact alu (fun w x => x.readReg w r) rfl adcOp_setsFlags
  · exact alu (fun w _ => immOp w i32) rfl xorOp_setsFlags
  · exact alu (fun w _ => immSext w i8) rfl xorOp_setsFlags
  · exact alu (fun w x => x.readReg w r) rfl xorOp_setsFlags
  · exact X86Answers.faultsOnUpdate (X86Answers.sized (body := fun x w => xchgBody w (.mem m) r x) rfl)
      (xchgBody_checksUpdate m _ r)
  · exact X86Answers.faultsOnUpdate
      (X86Answers.sized (body := fun x w => shrdBody w (.mem m) (x.readReg w r) (i8.toNat % 32) x) rfl)
      (shrdBody_checksUpdate m _ _ _)
  · exact X86Answers.faultsOnUpdate (X86Answers.sized (body := fun x w =>
      shrdBody w (.mem m) (x.readReg w r) ((x.readReg 8 ecx).toNat % 32) x) rfl) (shrdBody_checksUpdate m _ _ _)

end

/-! ### The forms that only read, or only write -/

section
variable {s : State} {m : X86Mem} {r : BitVec 3} {e : X86Exc} {i : Instr}

theorem raises_of_reads8 (h : s.x86.xseg (s.x86.segOf m) (s.x86.ea m) 1 .read = .error e)
    (hi : i ∈ [Instr.x86MovR8Rm8 r (.mem m), .x86AddR8Rm8 r (.mem m), .x86AdcR8Rm8 r (.mem m),
      .x86XorR8Rm8 r (.mem m)]) : Raises i s (.x86 e) := by
  have alu {i : Instr} {op : AluOp} (hi : exec i s = x86Do i (aluToReg op 8 r (.mem m)) s) : Raises i s (.x86 e) :=
    X86Answers.raises_of_read (w := 8) hi (fun _ => aluToReg_of_read m _) h
  simp only [List.mem_cons, List.not_mem_nil, or_false] at hi
  rcases hi with rfl | rfl | rfl | rfl
  · exact X86Answers.raises_of_read (w := 8) (b := movToReg 8 r (.mem m) _) rfl (fun _ => movToReg_of_read m _) h
  · exact alu (op := addOp) rfl
  · exact alu (op := adcOp) rfl
  · exact alu (op := xorOp) rfl

theorem raises_of_readsSized (h : s.x86.xseg (s.x86.segOf m) (s.x86.ea m) (s.x86.opSize / 8) .read = .error e)
    (hi : i ∈ [Instr.x86MovRRm r (.mem m), .x86AddRRm r (.mem m), .x86AdcRRm r (.mem m), .x86XorRRm r (.mem m)]) :
    Raises i s (.x86 e) := by
  have alu {i : Instr} {op : AluOp}
      (hi : exec i s = x86Do i (fun x => x.atOpSize fun w => aluToReg op w r (.mem m) x) s) :
      Raises i s (.x86 e) :=
    X86Answers.raises_of_read (X86Answers.sized hi) (fun _ => aluToReg_of_read m _) h
  simp only [List.mem_cons, List.not_mem_nil, or_false] at hi
  rcases hi with rfl | rfl | rfl | rfl
  · exact X86Answers.raises_of_read (X86Answers.sized (body := fun x w => movToReg w r (.mem m) x) rfl)
      (fun _ => movToReg_of_read m _) h
  · exact alu (op := addOp) rfl
  · exact alu (op := adcOp) rfl
  · exact alu (op := xorOp) rfl

/-- An instruction that writes `v` to memory and reads no memory before. -/
theorem X86Answers.raises_of_write {w : Nat} {v : BitVec w}
    (h : X86Answers i s ((s.x86.entered i).writeRM (.mem m) v))
    (hw : s.x86.xseg (s.x86.segOf m) (s.x86.ea m) (w / 8) .write = .error e) : Raises i s (.x86 e) :=
  h.raises ((s.x86.sameOperands_entered i).writeRM_of_faults v hw)

theorem movFromMoffs_of_faults {w : Nat} {off : BitVec 32} {x : X86State}
    (h : x.xseg x.moffsSeg (x.moffs off) (w / 8) .read = .error e) :
    movFromMoffs w off x = .error (.raises (.x86 e)) := by
  rw [movFromMoffs, X86State.readSeg_of_faults _ _ _ _ _ e h]

/-- The numbers of segment registers: 0 to 5, CS being 1 (spec/30_encoding.md R153). -/
theorem sregOf_of_lt {sr : BitVec 3} (h : sr.toNat < 6) : ∃ g, sregOf sr = some g ∧ (sr ≠ 1#3 → g ≠ .cs) := by
  have known : ∀ sr : BitVec 3, sr.toNat < 6 → sregOf sr ≠ none ∧ (sr ≠ 1#3 → sregOf sr ≠ some .cs) := by decide
  obtain ⟨known_some, ncs⟩ := known sr h
  obtain ⟨g, hg⟩ := Option.ne_none_iff_exists'.1 known_some
  exact ⟨g, hg, fun hn e => ncs hn (hg.trans (congrArg some e))⟩

/-- MOV to a segment register other than CS reads its operand before it loads (spec/40_ia32.md R268). -/
theorem raises_of_movSregRm {sr : BitVec 3} {g : X86Sreg} (hg : sregOf sr = some g) (hcs : g ≠ .cs)
    (h : s.x86.xseg (s.x86.segOf m) (s.x86.ea m) 2 .read = .error e) :
    Raises (.x86MovSregRm sr (.mem m)) s (.x86 e) := by
  refine X86Answers.raises_of_read (w := 16) rfl (fun e hr => ?_) h
  dsimp only
  rw [hg]
  exact (if_neg hcs).trans (by rw [hr])

/-- MOV from a segment register writes the selector (spec/40_ia32.md R268). -/
theorem movRmSreg_answers {sr : BitVec 3} {g : X86Sreg} (hg : sregOf sr = some g) :
    X86Answers (.x86MovRmSreg (.mem m) sr) s
      ((s.x86.entered (.x86MovRmSreg (.mem m) sr)).writeRM (.mem m) (s.x86.segs.get g).sel) := by
  change execX86MovRmSreg (.mem m) sr s = _
  rw [execX86MovRmSreg, x86Do, hg]
  rfl

end

/-! ### The stack -/

section
variable {w : Nat} {x : X86State} {e : X86Exc}

theorem X86State.straddles_of_not_inStack {off : Word} {n : Nat} (h : ¬ x.InStack off n) : x.straddles off n = true :=
  Bool.of_not_eq_false (mt (x.straddles_eq_false off n).1 h)

/-- A push whose bytes straddle the end of a 16-bit stack (spec/20_memory.md R105). -/
theorem X86State.push_of_straddle (v : BitVec w) (h : ¬ x.InStack (x.pushTo (w / 8)) (w / 8)) :
    x.push v = .error (.refuses .stackStraddle) := by
  rw [X86State.push, X86State.spPlus_eq]
  exact if_pos (X86State.straddles_of_not_inStack h)

theorem X86State.push_of_faults (v : BitVec w) (h : x.InStack (x.pushTo (w / 8)) (w / 8))
    (hf : x.xseg .ss (x.pushTo (w / 8)) (w / 8) .stackWrite = .error e) : x.push v = .error (.raises (.x86 e)) := by
  have inside := Bool.eq_false_iff.1 ((x.straddles_eq_false _ _).2 h)
  rw [X86State.push, X86State.spPlus_eq]
  refine (if_neg inside).trans ?_
  rw [show x.stackUp (-(BitVec.ofNat 32 (w / 8))) = x.pushTo (w / 8) from rfl,
    x.writeSeg_of_faults _ _ _ v e hf]

theorem X86State.pop_of_straddle (h : ¬ x.InStack x.topOfStack (w / 8)) :
    x.pop w = .error (.refuses .stackStraddle) := by
  rw [X86State.pop, X86State.sp_eq]
  exact if_pos (X86State.straddles_of_not_inStack h)

theorem X86State.pop_of_faults (h : x.InStack x.topOfStack (w / 8))
    (hf : x.xseg .ss x.topOfStack (w / 8) .stackRead = .error e) : x.pop w = .error (.raises (.x86 e)) := by
  rw [X86State.pop, X86State.sp_eq, if_neg (Bool.eq_false_iff.1 ((x.straddles_eq_false _ _).2 h)),
    x.readSeg_of_faults w _ _ _ e hf]

end

/-! ### PUSH -/

/-- The PUSH forms that read no memory. -/
def pushForms (r : BitVec 3) (i8 : BitVec 8) (i32 : BitVec 32) : List Instr :=
  [.x86PushReg r, .x86PushImm8 i8, .x86PushImm i32, .x86PushCs, .x86PushSs, .x86PushDs, .x86PushEs, .x86PushFs,
    .x86PushGs]

/-- PUSH of a segment register pushes `OperandSize` bits, the upper ones drawn (spec/40_ia32.md R261). -/
theorem pushSelector_eq (g : X86Sreg) {x : X86State} (h : ¬ x.Exhausted) {w : Nat} (hw : w = x.opSize) :
    ∃ d, ∃ v : BitVec w, pushSelector g x = X86State.push { x with draws := d } v := by
  rw [pushSelector, x.guardPush_of _ h]
  rw [X86State.opSize] at hw
  cases hop : x.op32 with
  | true =>
    rw [hop] at hw
    subst hw
    exact ⟨_, _, rfl⟩
  | false =>
    rw [hop] at hw
    subst hw
    exact ⟨x.draws, _, rfl⟩

/-- A PUSH that does not shut down pushes a value of `OperandSize` bits. -/
theorem push_answers {s : State} {w : Nat} {r : BitVec 3} {rm : X86RM} {i8 : BitVec 8} {i32 : BitVec 32} {i : Instr}
    (hw : w = s.x86.opSize) (hx : ¬ s.x86.Exhausted)
    (hi : i ∈ pushForms r i8 i32 ∨ i = .x86PushRm rm ∧ s.x86.Reaches w rm .read) :
    ∃ d, ∃ v : BitVec w, X86Answers i s (X86State.push { s.x86.entered i with draws := d } v) := by
  have sized {i : Instr} {body : X86State → Nat → Body X86State} {v : BitVec w}
      (hi : exec i s = x86Do i (fun x => x.guardPush (x.atOpSize (body x))) s)
      (hb : body (s.x86.entered i) w = (s.x86.entered i).push v) :
      ∃ d, ∃ v : BitVec w, X86Answers i s (X86State.push { s.x86.entered i with draws := d } v) := by
    refine ⟨s.x86.draws, v, ?_⟩
    have answers := X86Answers.guarded hi hx
    rwa [← hw, hb] at answers
  have selector {i : Instr} {g : X86Sreg} (hi : exec i s = x86Do i (pushSelector g) s) :
      ∃ d, ∃ v : BitVec w, X86Answers i s (X86State.push { s.x86.entered i with draws := d } v) := by
    obtain ⟨d, v, h⟩ := pushSelector_eq g (x := s.x86.entered i) hx hw
    exact ⟨d, v, by rw [X86Answers, hi, x86Do, h]⟩
  rcases hi with hi | ⟨rfl, hr⟩
  · simp only [pushForms, List.mem_cons, List.not_mem_nil, or_false] at hi
    rcases hi with rfl | rfl | rfl | rfl | rfl | rfl | rfl | rfl | rfl
    · exact sized (body := fun x w => x.push (x.readReg w r)) rfl rfl
    · exact sized (body := fun x w => x.push (immSext w i8)) rfl rfl
    · exact sized (body := fun x w => x.push (immOp w i32)) rfl rfl
    all_goals exact selector rfl
  · refine sized (body := fun x w => match x.readRM w rm with
      | .ok v => x.push v
      | .error e => .error e) (v := s.x86.operand w rm) rfl ?_
    rw [readRM_entered _ s w rm hr]

/-! ### POP and near RET -/

/-- The POP forms. -/
def popForms (r : BitVec 3) (m : X86Mem) : List Instr :=
  [.x86PopReg r, .x86PopMem m, .x86PopDs, .x86PopEs, .x86PopFs, .x86PopGs, .x86PopSs]

theorem popSelector_of_pop (g : X86Sreg) {x : X86State} {e : Stop X86State} (h : x.pop x.opSize = .error e) :
    popSelector g x = .error e := by
  rw [popSelector, X86State.atOpSize_eq, h]

/-- What stops the stack access of a POP stops the instruction. -/
theorem pop_answers {s : State} {r : BitVec 3} {m : X86Mem} {i : Instr} {e : Stop X86State} (hi : i ∈ popForms r m)
    (h : (s.x86.entered i).pop s.x86.opSize = .error e) : X86Answers i s (.error e) := by
  have selector {i : Instr} {g : X86Sreg} (hi : exec i s = x86Do i (popSelector g) s)
      (h : (s.x86.entered i).pop s.x86.opSize = .error e) : X86Answers i s (.error e) := by
    rw [X86Answers, hi, x86Do, popSelector_of_pop g h]
  simp only [popForms, List.mem_cons, List.not_mem_nil, or_false] at hi
  rcases hi with rfl | rfl | rfl | rfl | rfl | rfl | rfl
  · have answers := X86Answers.sized (i := .x86PopReg r) (s := s) (body := fun x w => match x.pop w with
      | .ok (v, y) => .ok (y.writeReg r v)
      | .error e => .error e) rfl
    rwa [h] at answers
  · have answers := X86Answers.sized (i := .x86PopMem m) (s := s) (body := fun x w => popToMem w m x) rfl
    rwa [popToMem, h] at answers
  · exact selector rfl h
  · exact selector rfl h
  · exact selector rfl h
  · exact selector rfl h
  · change execX86PopSs s = _
    rw [execX86PopSs, x86Do, popSelector_of_pop .ss h]

section
variable {x : X86State} (extra : Word)

/-- Near RET, in the order of its checks (spec/40_ia32.md R296). -/
theorem retBody_of_straddle (h : ¬ x.InStack x.topOfStack (x.opSize / 8)) :
    retBody extra x = .error (.refuses .stackStraddle) := by
  rw [retBody, X86State.atOpSize_eq, X86State.sp_eq, if_pos (X86State.straddles_of_not_inStack h)]

variable (h : x.InStack x.topOfStack (x.opSize / 8))
include h

theorem retBody_of_outside (ho : x.Outside .ss x.topOfStack (x.opSize / 8)) :
    retBody extra x = .error (.raises (.x86 (.ss 0))) := by
  rw [retBody, X86State.atOpSize_eq, X86State.sp_eq, if_neg (Bool.eq_false_iff.1 ((x.straddles_eq_false _ _).2 h)),
    if_pos ((x.pastLimit_eq_true _ _ _).2 ho)]

theorem retBody_of_pop {e : Stop X86State} (ho : ¬ x.Outside .ss x.topOfStack (x.opSize / 8))
    (hp : x.pop x.opSize = .error e) : retBody extra x = .error e := by
  rw [retBody, X86State.atOpSize_eq, X86State.sp_eq, if_neg (Bool.eq_false_iff.1 ((x.straddles_eq_false _ _).2 h)),
    if_neg (mt (x.pastLimit_eq_true _ _ _).1 ho), hp]

end

theorem ret_answers {s : State} {i16 : BitVec 16} {i : Instr} (hi : i ∈ [Instr.x86Ret, .x86RetImm i16]) :
    ∃ extra, X86Answers i s (retBody extra (s.x86.entered i)) := by
  rcases List.mem_pair.1 hi with rfl | rfl
  · exact ⟨_, rfl⟩
  · exact ⟨_, rfl⟩

/-- The destination of POP, addressed after the increment (spec/40_ia32.md R286). -/
theorem raises_of_popMem {s : State} {m : X86Mem} {e : X86Exc} (hp : s.x86.CanPop (s.x86.opSize / 8))
    (hw : s.x86.popWraps m (s.x86.opSize / 8) = false)
    (hf : X86State.xseg (s.x86.setSp (s.x86.popTo (s.x86.opSize / 8)))
      (X86State.segOf (s.x86.setSp (s.x86.popTo (s.x86.opSize / 8))) m)
      (X86State.ea (s.x86.setSp (s.x86.popTo (s.x86.opSize / 8))) m) (s.x86.opSize / 8) .write = .error e) :
    Raises (.x86PopMem m) s (.x86 e) := by
  have answers := X86Answers.sized (i := .x86PopMem m) (s := s) (body := fun x w => popToMem w m x) rfl
  have popped := X86State.pop_of_allows s.x86.opSize (s.x86.entered (.x86PopMem m)) hp
  have wraps : (s.x86.entered (.x86PopMem m)).popWraps m (s.x86.opSize / 8) = false := by
    cases m <;> exact hw
  have same : X86State.SameOperands (s.x86.setSp (s.x86.popTo (s.x86.opSize / 8)))
      ((s.x86.entered (.x86PopMem m)).setSp (s.x86.popTo (s.x86.opSize / 8))) :=
    ⟨by simp, by simp, by simp,
      X86State.setSp_gpr_congr (x := s.x86) (y := s.x86.entered _) rfl rfl _, by simp⟩
  rw [popToMem, popped] at answers
  dsimp only at answers
  rw [wraps] at answers
  exact answers.raises (same.writeRM_of_faults _ hf)

/-- Settles O15: each instruction begins with its access, or makes it after one that is allowed. -/
theorem x86AccessFaults : Obligations.X86AccessFaults := by
  unfold Obligations.X86AccessFaults
  intro s w e r sr rm m i8 i32 i16 i hw x down up at8 at16 atW moffs both8 bothW
  subst hw
  refine ⟨fun hx hin hf hi => ?push, fun hx hr => ?pushOperand, fun hin hf hi => ?pop, fun hi hin ho => ?limit,
    fun hx hin hi => ?pushStraddle, fun hin hi => ?popStraddle, fun hp hwr hf => raises_of_popMem hp hwr hf,
    fun h hi => ?read8, fun h hi => ?readSized, fun h h1 h6 => ?readSelector, fun h hi => ?write8, fun h hi => ?writeSized,
    fun h h6 => ?writeSelector, fun h => ?alMoffs, fun h => ?axMoffs, fun h => ?moffsAl, fun h => ?moffsAx⟩
  case push =>
    obtain ⟨d, v, answers⟩ := push_answers rfl hx hi
    exact answers.raises (X86State.push_of_faults v hin hf)
  case pushOperand =>
    have answers := X86Answers.guarded (i := .x86PushRm (.mem m)) (s := s) (body := fun x w =>
      match x.readRM w (.mem m) with
      | .ok v => x.push v
      | .error e => .error e) rfl hx
    exact answers.raises_of_read (fun e h => by rw [h]) hr
  case pop =>
    rcases hi with hi | ⟨hi, ho⟩
    · exact (pop_answers hi (X86State.pop_of_faults hin hf)).raises rfl
    · obtain ⟨extra, answers⟩ := ret_answers (s := s) hi
      exact answers.raises (retBody_of_pop (x := s.x86.entered i) extra hin ho (X86State.pop_of_faults hin hf))
  case limit =>
    obtain ⟨extra, answers⟩ := ret_answers (s := s) hi
    exact answers.raises (retBody_of_outside extra hin ho)
  case pushStraddle =>
    obtain ⟨d, v, answers⟩ := push_answers rfl hx hi
    exact answers.refused (X86State.push_of_straddle v hin)
  case popStraddle =>
    rcases List.mem_append.1 (show i ∈ popForms r m ++ [Instr.x86Ret, .x86RetImm i16] from hi) with hi | hi
    · exact (pop_answers hi (X86State.pop_of_straddle hin)).refused rfl
    · obtain ⟨extra, answers⟩ := ret_answers (s := s) hi
      exact answers.refused (retBody_of_straddle extra hin)
  case read8 =>
    rcases List.mem_append.1 hi with hi | hi
    · exact raises_of_reads8 h hi
    · exact (faultsOnUpdate_of_updates8 s m r i8 hi).read e h
  case readSized =>
    rcases List.mem_append.1 hi with hi | hi
    · exact raises_of_readsSized h hi
    · exact (faultsOnUpdate_of_updatesSized s m r i8 i32 hi).read e h
  case readSelector =>
    obtain ⟨g, hg, hcs⟩ := sregOf_of_lt h6
    exact raises_of_movSregRm hg (hcs h1) h
  case write8 =>
    rcases hi with hi | ⟨hi, hr⟩
    · rcases List.mem_pair.1 hi with rfl | rfl
      · exact X86Answers.raises_of_write (v := s.x86.readReg 8 r) rfl h
      · exact X86Answers.raises_of_write (v := i8) rfl h
    · exact (faultsOnUpdate_of_updates8 s m r i8 hi).write e hr h
  case writeSized =>
    rcases hi with hi | ⟨hi, hr⟩
    · rcases List.mem_pair.1 hi with rfl | rfl
      · exact X86Answers.raises_of_write
          (X86Answers.sized (body := fun x w => movToRM w (.mem m) (x.readReg w r) x) rfl) h
      · exact X86Answers.raises_of_write
          (X86Answers.sized (body := fun x w => movToRM w (.mem m) (immOp w i32) x) rfl) h
    · exact (faultsOnUpdate_of_updatesSized s m r i8 i32 hi).write e hr h
  case writeSelector =>
    obtain ⟨g, hg, -⟩ := sregOf_of_lt h6
    exact (movRmSreg_answers hg).raises_of_write h
  case alMoffs => exact X86Answers.raises (b := movFromMoffs 8 i32 _) rfl (movFromMoffs_of_faults h)
  case axMoffs =>
    exact (X86Answers.sized (body := fun x w => movFromMoffs w i32 x) rfl).raises (movFromMoffs_of_faults h)
  case moffsAl =>
    exact X86Answers.raises (b := movToMoffs 8 i32 _) rfl (X86State.writeSeg_of_faults _ _ _ _ _ e h)
  case moffsAx =>
    exact (X86Answers.sized (body := fun x w => movToMoffs w i32 x) rfl).raises
      (X86State.writeSeg_of_faults _ _ _ _ _ e h)

end Sys2Proof.Machine
end

section
/-! PROOFS, the encodings of P1 (spec/30_encoding.md R150 to R161): the decoder undoes the encoder, one lemma per
operand form and one row per instruction. -/

namespace Sys2Proof

/-! ### Opcode bytes -/

/-- A byte that is none of the prefixes that the decoder takes off (R158). -/
abbrev IsOpcode (b : Byte) : Prop := b ≠ 0x66#8 ∧ b ≠ 0x67#8 ∧ overrideOf b = none

/-- After the prefixes comes the opcode. -/
theorem decodeX86_opcode {b : Byte} (csD : Bool) (p : X86Pfx) (l : List Byte) (hb : IsOpcode b) :
    decodeX86 csD p (b :: l) = decodeX86Opcode (csD != p.op) (csD != p.addr) b l := by
  obtain ⟨h66, h67, ho⟩ := hb
  rw [decodeX86, if_neg h66, if_neg h67, ho]

theorem fld_opReg (base : BitVec 5) (r : BitVec 3) : fld (opReg base r) 3 5 = base ∧ fld (opReg base r) 0 3 = r :=
  ⟨fld_bitsOf 8 [] [fd r] base (fieldsFit_fd _ fieldsFit_nil) (by simp [fieldsWidth, fd]),
    fld_bitsOf 8 [fd base] [] r fieldsFit_nil (by decide)⟩

theorem opReg_fld (b : Byte) : opReg (fld b 3 5) (fld b 0 3) = b := by
  apply BitVec.eq_of_toNat_eq
  rw [opReg, toNat_bitsOf]
  simp only [assemble, fd, toNat_fld]
  have := b.isLt
  omega

/-- The direct opcodes of an arithmetic family are laid out as a ModR/M byte with mod 00. -/
theorem opAlu_fld {b : Byte} (h : fld b 6 2 = 0#2) : opAlu (fld b 3 3) (fld b 0 3) = b := by
  have := modrm_fld b
  rw [h] at this
  exact this

/-- No opcode that holds a register number is one of the prefixes. -/
theorem isOpcode_opReg {base : BitVec 5} (h : base ∈ [0x0A#5, 0x0B#5, 0x12#5, 0x16#5, 0x17#5]) (r : BitVec 3) :
    IsOpcode (opReg base r) := by
  revert base r
  decide

theorem X86Alu.eq_digit {d : BitVec 3} {a : X86Alu} (h : X86Alu.ofDigit d = some a) : d = a.digit := by
  cases a <;> (revert d; decide)

theorem eq_override {b : Byte} {g : X86Sreg} (h : overrideOf b = some g) : b = g.override := by
  cases g <;> (revert b; decide)

/-! ### The decoder undoes the encoder: one lemma per operand form

In each, `hd` is the row of the opcode map. -/

section
variable {csD : Bool} {p : X86Pfx} {rest : List Byte} {i : Instr}

theorem decodeX86_of_opcode {b : Byte} {l : List Byte} (hb : IsOpcode b)
    (hd : decodeX86Opcode (csD != p.op) (csD != p.addr) b l = .ok i) : decodeX86 csD p (b :: l) = .ok i := by
  rw [decodeX86_opcode csD p l hb, hd]

theorem decodeX86_imm16 (b : Byte) (k : BitVec 16 → Instr) {v : BitVec 16} (hb : IsOpcode b)
    (hd : ∀ o a l, decodeX86Opcode o a b l = take16 l fun v _ => .ok (k v)) :
    decodeX86 csD p (b :: (bytes16 v ++ rest)) = .ok (k v) := by
  rw [decodeX86_opcode csD p _ hb, hd, take16_bytes16]

/-- The size `s` of the immediate is the operand's, the size of a moffs offset the address's. -/
theorem decodeX86_immBySize (s : Bool) (b : Byte) (k : BitVec 32 → Instr) {v : BitVec 32} (hb : IsOpcode b)
    (hd : ∀ l, decodeX86Opcode (csD != p.op) (csD != p.addr) b l = takeBySize s l fun v _ => .ok (k v))
    (h : fitsSize s v = true) : decodeX86 csD p (b :: (bytesBySize s v ++ rest)) = .ok (k v) := by
  rw [decodeX86_opcode csD p _ hb, hd, takeBySize_bytesBySize _ _ _ _ h]

variable {r : BitVec 3} {rm : X86RM} (h : rm.wf (csD != p.addr) = true)
include h

theorem decodeX86_rm (b : Byte) (k : BitVec 3 → X86RM → Instr) (hb : IsOpcode b)
    (hd : ∀ o a l, decodeX86Opcode o a b l = takeRM a l fun r rm _ => .ok (k r rm)) :
    decodeX86 csD p (b :: (encodeRM r rm ++ rest)) = .ok (k r rm) := by
  rw [decodeX86_opcode csD p _ hb, hd, takeRM_encodeRM _ _ _ _ _ h]

/-- The forms with a `/digit`, `imm` after the r/m operand. -/
theorem decodeX86_digit (b : Byte) (listed : BitVec 3 → Bool) (k : BitVec 3 → X86RM → List Byte → Decoded Instr)
    (imm : List Byte) (hb : IsOpcode b)
    (hd : ∀ l, decodeX86Opcode (csD != p.op) (csD != p.addr) b l = takeDigit (csD != p.addr) listed l k)
    (hr : listed r = true) (hk : k r rm (imm ++ rest) = .ok i) :
    decodeX86 csD p (b :: (encodeRM r rm ++ imm ++ rest)) = .ok i := by
  rw [decodeX86_opcode csD p _ hb, hd, List.append_assoc, takeDigit_encodeRM _ _ _ _ _ _ h hr, hk]

/-- The groups 80, 81 and 83, whose `/digit` names the family. -/
theorem decodeX86_aluGroup (a : X86Alu) {b : Byte} (imm : List Byte) (hb : b = 0x80#8 ∨ b = 0x81#8 ∨ b = 0x83#8) :
    decodeX86 csD p (b :: (encodeRM a.digit rm ++ imm ++ rest)) =
      if b = 0x80#8 then take8 (imm ++ rest) fun v _ => .ok (a.rm8Imm8 rm v)
      else if b = 0x81#8 then takeBySize (csD != p.op) (imm ++ rest) fun v _ => .ok (a.rmImm rm v)
      else take8 (imm ++ rest) fun v _ => .ok (a.rmImm8 rm v) := by
  have hop : IsOpcode b := by rcases hb with rfl | rfl | rfl <;> decide
  have row (l : List Byte) : decodeX86Opcode (csD != p.op) (csD != p.addr) b l =
      decodeX86AluGroup b (csD != p.op) (csD != p.addr) l := by
    rcases hb with rfl | rfl | rfl <;> rfl
  have listed : (X86Alu.ofDigit a.digit).isSome = true := by cases a <;> rfl
  rw [decodeX86_opcode csD p _ hop, row, decodeX86AluGroup, List.append_assoc,
    takeDigit_encodeRM _ _ _ _ _ _ h listed]
  cases a <;> rfl

end

section
variable {csD : Bool} {p : X86Pfx} {l rest : List Byte} {i : Instr}

/-- The group 81 with its immediate of the operand size. -/
theorem decodeX86_rmImm (a : X86Alu) {rm : X86RM} {v : BitVec 32}
    (h : (rm.wf (csD != p.addr) && fitsSize (csD != p.op) v) = true) :
    decodeX86 csD p (0x81#8 :: (encodeRM a.digit rm ++ bytesBySize (csD != p.op) v ++ rest)) = .ok (a.rmImm rm v) := by
  obtain ⟨hrm, hv⟩ := Bool.and_eq_true_iff.1 h
  rw [decodeX86_aluGroup hrm a _ (.inr (.inl rfl)), if_neg (by decide), if_pos rfl, takeBySize_bytesBySize _ _ _ _ hv]

theorem decodeX86_opSize {w : Bool} (h : (!p.op && w) = true)
    (ih : w = true → decodeX86 csD { p with op := true } l = .ok i) :
    decodeX86 csD p (0x66#8 :: l) = .ok (.x86OpSize i) := by
  obtain ⟨hp, hw⟩ := Bool.and_eq_true_iff.1 h
  rw [Bool.not_eq_true'] at hp
  rw [decodeX86, if_pos rfl, hp, ih hw]
  rfl

theorem decodeX86_addrSize {w : Bool} (h : (!p.addr && w) = true)
    (ih : w = true → decodeX86 csD { p with addr := true } l = .ok i) :
    decodeX86 csD p (0x67#8 :: l) = .ok (.x86AddrSize i) := by
  obtain ⟨hp, hw⟩ := Bool.and_eq_true_iff.1 h
  rw [Bool.not_eq_true'] at hp
  rw [decodeX86, if_neg (by decide), if_pos rfl, hp, ih hw]
  rfl

theorem decodeX86_override (g : X86Sreg) {w : Bool} (h : (p.seg.isNone && w) = true)
    (ih : w = true → decodeX86 csD { p with seg := some g } l = .ok i) :
    decodeX86 csD p (g.override :: l) = .ok (overridden i g) := by
  obtain ⟨hp, hw⟩ := Bool.and_eq_true_iff.1 h
  have hg : g.override ≠ 0x66#8 ∧ g.override ≠ 0x67#8 ∧ overrideOf g.override = some g := by cases g <;> decide
  obtain ⟨h66, h67, ho⟩ := hg
  rw [decodeX86, if_neg h66, if_neg h67, ho, Option.isNone_iff_eq_none.1 hp]
  exact congrArg (Except.map (overridden · g)) (ih hw)

end

/-- The bytes that the encoder writes after the prefixes `p` decode to the instruction, whatever follows them. -/
theorem decodeX86_encodeX86 (csD : Bool) (p : X86Pfx) (i : Instr) (rest : List Byte) (h : i.wfX86 csD p = true) :
    decodeX86 csD p (encodeX86 csD p i ++ rest) = .ok i := by
  induction i generalizing p with
  | x86OpSize i ih => exact decodeX86_opSize h (ih _)
  | x86AddrSize i ih => exact decodeX86_addrSize h (ih _)
  | x86SegCs i ih => exact decodeX86_override .cs h (ih _)
  | x86SegSs i ih => exact decodeX86_override .ss h (ih _)
  | x86SegDs i ih => exact decodeX86_override .ds h (ih _)
  | x86SegEs i ih => exact decodeX86_override .es h (ih _)
  | x86SegFs i ih => exact decodeX86_override .fs h (ih _)
  | x86SegGs i ih => exact decodeX86_override .gs h (ih _)
  | x86PushCs | x86PushSs | x86PushDs | x86PushEs | x86PushFs | x86PushGs | x86PopDs | x86PopEs | x86PopFs | x86PopGs
  | x86PopSs | x86Ret | x86RetFar | x86Lock => exact decodeX86_of_opcode (by decide) rfl
  | x86PushImm8 v | x86XorAlImm8 v | x86AddAlImm8 v | x86AdcAlImm8 v | x86Loop v | x86Loope v | x86Loopne v =>
    exact decodeX86_of_opcode (by decide) rfl
  | x86RetImm v => exact decodeX86_imm16 0xC2#8 .x86RetImm (by decide) fun _ _ _ => rfl
  | x86RetFarImm v => exact decodeX86_imm16 0xCA#8 .x86RetFarImm (by decide) fun _ _ _ => rfl
  | x86PushImm v => exact decodeX86_immBySize _ 0x68#8 .x86PushImm (by decide) (fun _ => rfl) h
  | x86XorAxImm v => exact decodeX86_immBySize _ (opAlu 6 5) .x86XorAxImm (by decide) (fun _ => rfl) h
  | x86AddAxImm v => exact decodeX86_immBySize _ (opAlu 0 5) .x86AddAxImm (by decide) (fun _ => rfl) h
  | x86AdcAxImm v => exact decodeX86_immBySize _ (opAlu 2 5) .x86AdcAxImm (by decide) (fun _ => rfl) h
  | x86MovAlMoffs v => exact decodeX86_immBySize _ 0xA0#8 .x86MovAlMoffs (by decide) (fun _ => rfl) h
  | x86MovAxMoffs v => exact decodeX86_immBySize _ 0xA1#8 .x86MovAxMoffs (by decide) (fun _ => rfl) h
  | x86MovMoffsAl v => exact decodeX86_immBySize _ 0xA2#8 .x86MovMoffsAl (by decide) (fun _ => rfl) h
  | x86MovMoffsAx v => exact decodeX86_immBySize _ 0xA3#8 .x86MovMoffsAx (by decide) (fun _ => rfl) h
  | x86PushReg r | x86PopReg r | x86XchgAxR r | x86MovR8Imm8 r v =>
    exact decodeX86_of_opcode (isOpcode_opReg (by decide) r) (by simp [decodeX86Opcode, fld_opReg])
  | x86MovRImm r v =>
    exact decodeX86_immBySize _ (opReg 0x17 r) (.x86MovRImm r) (isOpcode_opReg (by decide) r)
      (fun _ => by simp [decodeX86Opcode, fld_opReg]) h
  | x86XorRm8R8 rm r => exact decodeX86_rm h (opAlu 6 0) (fun r rm => .x86XorRm8R8 rm r) (by decide) fun _ _ _ => rfl
  | x86XorRmR rm r => exact decodeX86_rm h (opAlu 6 1) (fun r rm => .x86XorRmR rm r) (by decide) fun _ _ _ => rfl
  | x86XorR8Rm8 r rm => exact decodeX86_rm h (opAlu 6 2) .x86XorR8Rm8 (by decide) fun _ _ _ => rfl
  | x86XorRRm r rm => exact decodeX86_rm h (opAlu 6 3) .x86XorRRm (by decide) fun _ _ _ => rfl
  | x86AddRm8R8 rm r => exact decodeX86_rm h (opAlu 0 0) (fun r rm => .x86AddRm8R8 rm r) (by decide) fun _ _ _ => rfl
  | x86AddRmR rm r => exact decodeX86_rm h (opAlu 0 1) (fun r rm => .x86AddRmR rm r) (by decide) fun _ _ _ => rfl
  | x86AddR8Rm8 r rm => exact decodeX86_rm h (opAlu 0 2) .x86AddR8Rm8 (by decide) fun _ _ _ => rfl
  | x86AddRRm r rm => exact decodeX86_rm h (opAlu 0 3) .x86AddRRm (by decide) fun _ _ _ => rfl
  | x86AdcRm8R8 rm r => exact decodeX86_rm h (opAlu 2 0) (fun r rm => .x86AdcRm8R8 rm r) (by decide) fun _ _ _ => rfl
  | x86AdcRmR rm r => exact decodeX86_rm h (opAlu 2 1) (fun r rm => .x86AdcRmR rm r) (by decide) fun _ _ _ => rfl
  | x86AdcR8Rm8 r rm => exact decodeX86_rm h (opAlu 2 2) .x86AdcR8Rm8 (by decide) fun _ _ _ => rfl
  | x86AdcRRm r rm => exact decodeX86_rm h (opAlu 2 3) .x86AdcRRm (by decide) fun _ _ _ => rfl
  | x86XchgRm8R8 rm r => exact decodeX86_rm h 0x86#8 (fun r rm => .x86XchgRm8R8 rm r) (by decide) fun _ _ _ => rfl
  | x86XchgRmR rm r => exact decodeX86_rm h 0x87#8 (fun r rm => .x86XchgRmR rm r) (by decide) fun _ _ _ => rfl
  | x86MovRm8R8 rm r => exact decodeX86_rm h 0x88#8 (fun r rm => .x86MovRm8R8 rm r) (by decide) fun _ _ _ => rfl
  | x86MovRmR rm r => exact decodeX86_rm h 0x89#8 (fun r rm => .x86MovRmR rm r) (by decide) fun _ _ _ => rfl
  | x86MovR8Rm8 r rm => exact decodeX86_rm h 0x8A#8 .x86MovR8Rm8 (by decide) fun _ _ _ => rfl
  | x86MovRRm r rm => exact decodeX86_rm h 0x8B#8 .x86MovRRm (by decide) fun _ _ _ => rfl
  | x86MovRmSreg rm r => exact decodeX86_rm h 0x8C#8 (fun r rm => .x86MovRmSreg rm r) (by decide) fun _ _ _ => rfl
  | x86MovSregRm r rm => exact decodeX86_rm h 0x8E#8 .x86MovSregRm (by decide) fun _ _ _ => rfl
  | x86XorRm8Imm8 rm v => exact decodeX86_aluGroup h .xor [v] (.inl rfl)
  | x86XorRmImm8 rm v => exact decodeX86_aluGroup h .xor [v] (.inr (.inr rfl))
  | x86XorRmImm rm v => exact decodeX86_rmImm .xor h
  | x86AddRm8Imm8 rm v => exact decodeX86_aluGroup h .add [v] (.inl rfl)
  | x86AddRmImm8 rm v => exact decodeX86_aluGroup h .add [v] (.inr (.inr rfl))
  | x86AddRmImm rm v => exact decodeX86_rmImm .add h
  | x86AdcRm8Imm8 rm v => exact decodeX86_aluGroup h .adc [v] (.inl rfl)
  | x86AdcRmImm8 rm v => exact decodeX86_aluGroup h .adc [v] (.inr (.inr rfl))
  | x86AdcRmImm rm v => exact decodeX86_rmImm .adc h
  | x86ShrdImm rm r v =>
    refine decodeX86_of_opcode (l := 0xAC#8 :: (encodeRM r rm ++ [v] ++ rest)) (by decide) ?_
    rw [List.append_assoc]
    exact takeRM_encodeRM _ r rm ([v] ++ rest) (fun r rm l => take8 l fun v _ => .ok (Instr.x86ShrdImm rm r v)) h
  | x86ShrdCl rm r =>
    exact decodeX86_of_opcode (by decide) (takeRM_encodeRM _ r rm rest (fun r rm _ => .ok (Instr.x86ShrdCl rm r)) h)
  | x86PushRm rm =>
    exact decodeX86_of_opcode (by decide)
      (takeDigit_encodeRM _ (· == 6) 6 rm rest (fun _ rm _ => .ok (Instr.x86PushRm rm)) h rfl)
  | x86PopMem m =>
    exact decodeX86_of_opcode (by decide) (takeDigit_encodeRM _ (· == 0) 0 (.mem m) rest
      (fun _ rm _ => match rm with
        | .mem m => .ok (Instr.x86PopMem m)
        | .reg _ => .error .popRegisterForm) h rfl)
  | x86MovRm8Imm8 rm v =>
    exact decodeX86_digit h 0xC6#8 (· == 0) (fun _ rm l => take8 l fun v _ => .ok (.x86MovRm8Imm8 rm v)) [v]
      (by decide) (fun _ => rfl) rfl rfl
  | x86MovRmImm rm v =>
    obtain ⟨hrm, hv⟩ := Bool.and_eq_true_iff.1 h
    exact decodeX86_digit hrm 0xC7#8 (· == 0)
      (fun _ rm l => takeBySize (csD != p.op) l fun v _ => .ok (.x86MovRmImm rm v)) _
      (by decide) (fun _ => rfl) rfl (takeBySize_bytesBySize _ v rest _ hv)
  | _ => cases h

/-- Settles O3: the bytes of a whole instruction are those that the encoder writes where there are no prefixes yet. -/
theorem decodeEncodeX86 : Obligations.DecodeEncodeX86 := by
  unfold Obligations.DecodeEncodeX86
  exact fun csD i rest h => decodeX86_encodeX86 csD .none i rest h

end Sys2Proof
end

section
/-! PROOFS, the encodings of P1, the other direction: every branch of the decoder that answers an instruction has read
the bytes that the encoder writes for it. -/

namespace Sys2Proof

/-- A field of a field. -/
theorem fld_fld (w : BitVec n) {lo k i j : Nat} (h : i + j ≤ k) : fld (fld w lo k) i j = fld w (lo + i) j := by
  apply BitVec.eq_of_getLsbD_eq
  intro m hm
  simp only [fld, BitVec.getLsbD_extractLsb', Nat.add_assoc]
  simp [hm, show i + m < k by omega]

/-- The decoder's answer `d`, after the bytes `pre` and on the bytes `l`: an instruction that it gives is well-formed
under the prefixes `p`, and its encoding is where the bytes begin. -/
def Reads (csD : Bool) (p : X86Pfx) (pre l : List Byte) (d : Decoded Instr) : Prop :=
  ∀ i, d = .ok i → i.wfX86 csD p = true ∧ ∃ rest, pre ++ l = encodeX86 csD p i ++ rest

section
variable {csD : Bool} {p : X86Pfx} {pre l : List Byte}

/-! ### One rule per thing that the decoder does -/

/-- Where the decoder answers, the bytes read so far are the whole instruction. -/
theorem reads_ok {i : Instr} (hw : i.wfX86 csD p = true) (he : pre = encodeX86 csD p i) :
    Reads csD p pre l (.ok i) := by
  intro j hj
  cases hj
  exact ⟨hw, l, by rw [he]⟩

theorem reads_error {e : DecodeErr} : Reads csD p pre l (.error e) := fun _ h => nomatch h

theorem reads_ite {c : Prop} [Decidable c] {a b : Decoded Instr} (ha : c → Reads csD p pre l a)
    (hb : ¬ c → Reads csD p pre l b) : Reads csD p pre l (if c then a else b) := by
  split
  · exact ha ‹_›
  · exact hb ‹_›

theorem reads_take8 {k : BitVec 8 → List Byte → Decoded Instr} (h : ∀ v t, Reads csD p (pre ++ [v]) t (k v t)) :
    Reads csD p pre l (take8 l k) := by
  intro i hi
  obtain ⟨v, t, rfl, hk⟩ := take8_ok hi
  simpa using h v t i hk

theorem reads_take16 {k : BitVec 16 → List Byte → Decoded Instr}
    (h : ∀ v t, Reads csD p (pre ++ bytes16 v) t (k v t)) : Reads csD p pre l (take16 l k) := by
  intro i hi
  obtain ⟨v, t, rfl, hk⟩ := take16_ok hi
  simpa using h v t i hk

theorem reads_takeBySize {s : Bool} {k : BitVec 32 → List Byte → Decoded Instr}
    (h : ∀ v t, fitsSize s v = true → Reads csD p (pre ++ bytesBySize s v) t (k v t)) :
    Reads csD p pre l (takeBySize s l k) := by
  intro i hi
  obtain ⟨v, t, hv, rfl, hk⟩ := takeBySize_ok hi
  simpa using h v t hv i hk

theorem reads_takeRM {a : Bool} {k : BitVec 3 → X86RM → List Byte → Decoded Instr}
    (h : ∀ r rm t, rm.wf a = true → Reads csD p (pre ++ encodeRM r rm) t (k r rm t)) :
    Reads csD p pre l (takeRM a l k) := by
  intro i hi
  obtain ⟨r, rm, t, hrm, rfl, hk⟩ := takeRM_ok hi
  simpa using h r rm t hrm i hk

theorem reads_takeDigit {a : Bool} {listed : BitVec 3 → Bool} {k : BitVec 3 → X86RM → List Byte → Decoded Instr}
    (h : ∀ d rm t, rm.wf a = true → listed d = true → Reads csD p (pre ++ encodeRM d rm) t (k d rm t)) :
    Reads csD p pre l (takeDigit a listed l k) := by
  intro i hi
  obtain ⟨hrm, b, u, hl, hb⟩ := takeDigit_ok hi
  obtain ⟨d, rm, t, hw, rfl, hk⟩ := takeRM_ok hrm
  obtain ⟨b', u', he, hd⟩ := encodeRM_eq_cons d rm
  rw [he, List.cons_append, List.cons.injEq] at hl
  rw [hl.1] at hd
  simpa using h d rm t hw (hd ▸ hb) i hk

end

/-! ### The opcode map -/

section
variable {csD : Bool} {p : X86Pfx} {l : List Byte}

/-- A row of the opcode map: the byte `b`, last of the bytes read, is `v`. -/
theorem reads_row {pre : Byte → List Byte} {b v : Byte} {x y : Decoded Instr} (hx : Reads csD p (pre v) l x)
    (hy : Reads csD p (pre b) l y) : Reads csD p (pre b) l (if b = v then x else y) :=
  reads_ite (fun e => e ▸ hx) fun _ => hy

theorem reads_decodeX86TwoByte (b : Byte) :
    Reads csD p [0x0F#8, b] l (decodeX86TwoByte b (csD != p.addr) l) := by
  have row := @reads_row csD p l fun b => [0x0F#8, b]
  exact
    row (reads_ok rfl rfl) <| row (reads_ok rfl rfl) <| row (reads_ok rfl rfl) <| row (reads_ok rfl rfl) <|
    row (reads_takeRM fun _ _ _ h => reads_take8 fun _ _ => reads_ok h rfl) <|
    row (reads_takeRM fun _ _ _ h => reads_ok h rfl) reads_error

theorem reads_decodeX86ModRM (b : Byte) :
    Reads csD p [b] l (decodeX86ModRM b (csD != p.op) (csD != p.addr) l) := by
  have row := @reads_row csD p l fun b => [b]
  have rm {b : Byte} {k : BitVec 3 → X86RM → Instr} (hw : ∀ r rm, (k r rm).wfX86 csD p = rm.wf (csD != p.addr))
      (he : ∀ r rm, b :: encodeRM r rm = encodeX86 csD p (k r rm)) :
      Reads csD p [b] l (takeRM (csD != p.addr) l fun r rm _ => .ok (k r rm)) :=
    reads_takeRM fun r rm _ h => reads_ok ((hw r rm).trans h) (he r rm)
  refine
    row (rm (fun _ _ => rfl) fun _ _ => rfl) <| row (rm (fun _ _ => rfl) fun _ _ => rfl) <|
    row (rm (fun _ _ => rfl) fun _ _ => rfl) <| row (rm (fun _ _ => rfl) fun _ _ => rfl) <|
    row (rm (fun _ _ => rfl) fun _ _ => rfl) <| row (rm (fun _ _ => rfl) fun _ _ => rfl) <|
    row (rm (fun _ _ => rfl) fun _ _ => rfl) <| row (rm (fun _ _ => rfl) fun _ _ => rfl) <|
    row (reads_takeDigit fun d rm _ h hd => ?pop) <|
    row (reads_takeDigit fun d _ _ h hd => reads_take8 fun _ _ => ?movImm8) <|
    row (reads_takeDigit fun d _ _ h hd => reads_takeBySize fun _ _ hv => ?movImm) <|
    row (reads_takeDigit fun d _ _ h hd => ?push) reads_error
  all_goals obtain rfl := beq_iff_eq.1 hd
  case pop =>
    cases rm with
    | reg n => exact reads_error
    | mem m => exact reads_ok h rfl
  case movImm8 => exact reads_ok h rfl
  case movImm => exact reads_ok (Bool.and_eq_true_iff.2 ⟨h, hv⟩) rfl
  case push => exact reads_ok h rfl

theorem reads_decodeX86Plain (b : Byte) :
    Reads csD p [b] l (decodeX86Plain b (csD != p.op) (csD != p.addr) l) := by
  have row := @reads_row csD p l fun b => [b]
  exact
    row (reads_ok rfl rfl) <| row (reads_ok rfl rfl) <| row (reads_ok rfl rfl) <| row (reads_ok rfl rfl) <|
    row (reads_ok rfl rfl) <| row (reads_ok rfl rfl) <| row (reads_ok rfl rfl) <|
    row (reads_takeBySize fun _ _ h => reads_ok h rfl) <|
    row (reads_take8 fun _ _ => reads_ok rfl rfl) <|
    row (reads_takeBySize fun _ _ h => reads_ok h rfl) <|
    row (reads_takeBySize fun _ _ h => reads_ok h rfl) <|
    row (reads_takeBySize fun _ _ h => reads_ok h rfl) <|
    row (reads_takeBySize fun _ _ h => reads_ok h rfl) <|
    row (reads_take16 fun _ _ => reads_ok rfl rfl) <| row (reads_ok rfl rfl) <|
    row (reads_take16 fun _ _ => reads_ok rfl rfl) <| row (reads_ok rfl rfl) <|
    row (reads_take8 fun _ _ => reads_ok rfl rfl) <|
    row (reads_take8 fun _ _ => reads_ok rfl rfl) <|
    row (reads_take8 fun _ _ => reads_ok rfl rfl) <| row (reads_ok rfl rfl) <|
    reads_decodeX86ModRM b

/-- The direct opcodes of a family are the first six of the eight that share its digit. -/
theorem reads_decodeX86AluDirect (a : X86Alu) (k : BitVec 3) (hk : fld k 1 2 ≠ 3#2) :
    Reads csD p [opAlu a.digit k] l (decodeX86AluDirect a k (csD != p.op) (csD != p.addr) l) := by
  have six : k = 0 ∨ k = 1 ∨ k = 2 ∨ k = 3 ∨ k = 4 ∨ k = 5 := by revert k; decide
  refine reads_ite (fun e => ?_) fun h0 => reads_ite (fun e => ?_) fun h1 => reads_ite (fun e => ?_) fun h2 =>
    reads_ite (fun e => ?_) fun h3 => reads_ite (fun e => ?_) fun h4 => ?_
  on_goal 6 => have e : k = 5 :=
    ((((six.resolve_left h0).resolve_left h1).resolve_left h2).resolve_left h3).resolve_left h4
  all_goals subst e
  iterate 4 exact reads_takeRM fun _ _ _ h => reads_ok (by cases a <;> exact h) (by cases a <;> rfl)
  · exact reads_take8 fun _ _ => reads_ok (by cases a <;> rfl) (by cases a <;> rfl)
  · exact reads_takeBySize fun _ _ h => reads_ok (by cases a <;> exact h) (by cases a <;> rfl)

theorem reads_decodeX86AluGroup {b : Byte} (hb : b = 0x80#8 ∨ b = 0x81#8 ∨ b = 0x83#8) :
    Reads csD p [b] l (decodeX86AluGroup b (csD != p.op) (csD != p.addr) l) := by
  refine reads_takeDigit fun d rm t h hd => ?_
  obtain ⟨a, ha⟩ := Option.isSome_iff_exists.1 hd
  obtain rfl := X86Alu.eq_digit ha
  rw [ha]
  refine reads_ite (fun e => ?_) fun h80 => reads_ite (fun e => ?_) fun h81 => ?_
  on_goal 3 => have e : b = 0x83#8 := (hb.resolve_left h80).resolve_left h81
  all_goals subst e
  · exact reads_take8 fun _ _ => reads_ok (by cases a <;> exact h) (by cases a <;> rfl)
  · exact reads_takeBySize fun _ _ hv =>
      reads_ok (by cases a <;> exact Bool.and_eq_true_iff.2 ⟨h, hv⟩) (by cases a <;> rfl)
  · exact reads_take8 fun _ _ => reads_ok (by cases a <;> exact h) (by cases a <;> rfl)

theorem reads_decodeX86Opcode (b : Byte) :
    Reads csD p [b] l (decodeX86Opcode (csD != p.op) (csD != p.addr) b l) := by
  have reg {base : BitVec 5} {i : Instr} {pre : List Byte} (e : fld b 3 5 = base)
      (h : opReg base (fld b 0 3) :: pre = encodeX86 csD p i) : b :: pre = encodeX86 csD p i := by
    rw [← h, ← e, opReg_fld]
  refine reads_ite (fun e => reads_ok rfl (reg e rfl)) fun _ => reads_ite (fun e => reads_ok rfl (reg e rfl)) fun _ =>
    reads_ite (fun e => reads_ok rfl (reg e rfl)) fun _ =>
    reads_ite (fun e => reads_take8 fun _ _ => reads_ok rfl (reg e rfl)) fun _ =>
    reads_ite (fun e => reads_takeBySize fun _ _ h => reads_ok h (reg e rfl)) fun _ =>
    reads_ite (fun e => ?twoByte) fun _ => reads_ite reads_decodeX86AluGroup fun _ =>
    reads_ite (fun e => ?direct) fun _ => reads_decodeX86Plain b
  case twoByte =>
    intro i hi
    obtain ⟨b2, t, rfl, hk⟩ := take8_ok hi
    rw [e]
    exact reads_decodeX86TwoByte b2 i hk
  case direct =>
    obtain ⟨h6, h1⟩ := e
    cases ha : X86Alu.ofDigit (fld b 3 3) with
    | none => exact reads_decodeX86Plain b
    | some a =>
      have hb : opAlu a.digit (fld b 0 3) = b := by rw [← X86Alu.eq_digit ha, opAlu_fld h6]
      have direct := reads_decodeX86AluDirect (csD := csD) (p := p) (l := l) a (fld b 0 3)
        (by rwa [fld_fld _ (by decide)])
      rwa [hb] at direct

end

/-! ### Prefixes -/

/-- The byte `b` makes `q` of the prefixes `p`, the instruction with it is `g` of the one after it, and `free` says that
`p` has no byte of its kind. -/
theorem reads_prefixed {csD free : Bool} {p q : X86Pfx} {b : Byte} {l : List Byte} {d : Decoded Instr}
    {g : Instr → Instr} (hfree : free = true) (hw : ∀ i, (g i).wfX86 csD p = (free && i.wfX86 csD q))
    (he : ∀ i, encodeX86 csD p (g i) = b :: encodeX86 csD q i) (h : Reads csD q [] l d) :
    Reads csD p [] (b :: l) (d.map g) := by
  intro i hi
  cases d with
  | error e => cases hi
  | ok j =>
    cases hi
    obtain ⟨hj, rest, hrest⟩ := h j rfl
    rw [List.nil_append] at hrest
    exact ⟨by rw [hw, hfree, hj]; rfl, rest, by rw [he, hrest]; rfl⟩

/-- What is read after the prefixes `p` begins with the encoding of the instruction. -/
theorem reads_decodeX86 (csD : Bool) (p : X86Pfx) (l : List Byte) : Reads csD p [] l (decodeX86 csD p l) := by
  induction l generalizing p with
  | nil => exact reads_error
  | cons b l ih =>
    rw [decodeX86]
    refine reads_ite (fun h66 => reads_ite (fun _ => reads_error) fun hp => ?opSize) fun _ =>
      reads_ite (fun h67 => reads_ite (fun _ => reads_error) fun hp => ?addrSize) fun _ => ?_
    case opSize =>
      subst h66
      exact reads_prefixed (free := !p.op) (by simpa using hp) (fun _ => rfl) (fun _ => rfl) (ih _)
    case addrSize =>
      subst h67
      exact reads_prefixed (free := !p.addr) (by simpa using hp) (fun _ => rfl) (fun _ => rfl) (ih _)
    cases hg : overrideOf b with
    | none => exact reads_decodeX86Opcode b
    | some g =>
      obtain rfl := eq_override hg
      refine reads_ite (fun _ => reads_error) fun hp =>
        reads_prefixed (free := p.seg.isNone) (by simpa using hp) ?_ ?_ (ih _)
      · cases g <;> exact fun _ => rfl
      · cases g <;> exact fun _ => rfl

/-- Settles O4: the decoder starts with no prefixes and no byte read. -/
theorem encodeDecodeX86 : Obligations.EncodeDecodeX86 := by
  unfold Obligations.EncodeDecodeX86
  exact fun csD l i h => reads_decodeX86 csD .none l i h

end Sys2Proof
end

section
/-! PROOFS, the encodings of P2 to P6 (spec/30_encoding.md R165 to R228): a field of a word that the encoder assembles
is the value that it put there. -/

namespace Sys2Proof

/-! ### Fields of an assembled word, read from the left -/

@[simp] theorem fieldsWidth_nil : fieldsWidth [] = 0 := rfl

@[simp] theorem fieldsWidth_fd (v : BitVec k) (l : List (Nat × Nat)) :
    fieldsWidth (fd v :: l) = k + fieldsWidth l := rfl

@[simp] theorem fieldsWidth_fdb (b : Bool) (l : List (Nat × Nat)) :
    fieldsWidth (fdb b :: l) = 1 + fieldsWidth l := rfl

@[simp] theorem fieldsFit_nil_iff : FieldsFit [] ↔ True := iff_true_intro fieldsFit_nil

@[simp] theorem fieldsFit_fd_iff (v : BitVec k) (l : List (Nat × Nat)) : FieldsFit (fd v :: l) ↔ FieldsFit l :=
  ⟨fun h e he => h e (List.mem_cons_of_mem _ he), fieldsFit_fd v⟩

@[simp] theorem fieldsFit_fdb_iff (b : Bool) (l : List (Nat × Nat)) : FieldsFit (fdb b :: l) ↔ FieldsFit l :=
  ⟨fun h e he => h e (List.mem_cons_of_mem _ he), fieldsFit_fdb b⟩

theorem toNat_fld_bitsOf {n lo k : Nat} (l : List (Nat × Nat)) (h : lo + k ≤ n) :
    (fld (bitsOf n l) lo k).toNat = assemble 0 l % 2 ^ (lo + k) / 2 ^ lo := by
  obtain ⟨d, rfl⟩ := Nat.exists_eq_add_of_le h
  rw [toNat_fld, toNat_bitsOf, Nat.pow_add, Nat.pow_add, Nat.mul_assoc, Nat.mod_mul_right_div_self,
    Nat.mod_mul_right_mod, Nat.mod_mul_right_div_self]

/-- The fields to the left of a field are not read. -/
@[simp] theorem fld_bitsOf_right {n lo k : Nat} {e : Nat × Nat} {l : List (Nat × Nat)}
    (h : lo + k ≤ fieldsWidth l ∧ fieldsWidth l ≤ n) : fld (bitsOf n (e :: l)) lo k = fld (bitsOf n l) lo k := by
  obtain ⟨hk, hn⟩ := h
  obtain ⟨d, hd⟩ := Nat.exists_eq_add_of_le hk
  apply BitVec.eq_of_toNat_eq
  rw [toNat_fld_bitsOf _ (hk.trans hn), toNat_fld_bitsOf _ (hk.trans hn)]
  obtain ⟨m, v⟩ := e
  rw [assemble, assemble_eq, hd, Nat.pow_add, Nat.mul_left_comm, Nat.mul_add_mod]

/-- A field that lies in the leftmost one. -/
@[simp] theorem fld_bitsOf_left {n lo k m : Nat} {v : BitVec m} {l : List (Nat × Nat)}
    (h : fieldsWidth l ≤ lo ∧ lo + k ≤ fieldsWidth l + m ∧ fieldsWidth l + m ≤ n ∧ FieldsFit l) :
    fld (bitsOf n (fd v :: l)) lo k = fld v (lo - fieldsWidth l) k := by
  obtain ⟨hlo, hk, hn, hl⟩ := h
  have hv : fld (bitsOf n (fd v :: l)) (fieldsWidth l) m = v := fld_bitsOf n [] l v hl hn
  have hf := fld_fld (bitsOf n (fd v :: l)) (lo := fieldsWidth l) (show lo - fieldsWidth l + k ≤ m by omega)
  rw [hv, Nat.add_sub_cancel' hlo] at hf
  exact hf.symm

theorem bitAt_eq_fld (w : BitVec n) (i : Nat) : bitAt w i = (fld w i 1).getLsbD 0 := by simp [bitAt, fld]

@[simp] theorem bitAt_bitsOf_right {n i : Nat} {e : Nat × Nat} {l : List (Nat × Nat)}
    (h : i + 1 ≤ fieldsWidth l ∧ fieldsWidth l ≤ n) : bitAt (bitsOf n (e :: l)) i = bitAt (bitsOf n l) i := by
  rw [bitAt_eq_fld, bitAt_eq_fld, fld_bitsOf_right h]

@[simp] theorem bitAt_bitsOf_left {n i m : Nat} {v : BitVec m} {l : List (Nat × Nat)}
    (h : fieldsWidth l ≤ i ∧ i + 1 ≤ fieldsWidth l + m ∧ fieldsWidth l + m ≤ n ∧ FieldsFit l) :
    bitAt (bitsOf n (fd v :: l)) i = bitAt v (i - fieldsWidth l) := by
  rw [bitAt_eq_fld, fld_bitsOf_left h, ← bitAt_eq_fld]

@[simp] theorem bitAt_bitsOf_bit {n i : Nat} {b : Bool} {l : List (Nat × Nat)}
    (h : i = fieldsWidth l ∧ fieldsWidth l + 1 ≤ n ∧ FieldsFit l) : bitAt (bitsOf n (fdb b :: l)) i = b := by
  obtain ⟨rfl, hn, hl⟩ := h
  exact bitAt_bitsOf n [] l b hl hn

@[simp] theorem fld_whole (v : BitVec k) : fld v 0 k = v := BitVec.extractLsb'_eq_self

/-! ### Immediates in pieces -/

/-- Two neighbouring pieces of a value are one. -/
@[simp] theorem bitsOf_join {n hi lo i j : Nat} (v : BitVec m) (l : List (Nat × Nat)) (h : hi = lo + j) :
    bitsOf n (fd (fld v hi i) :: fd (fld v lo j) :: l) = bitsOf n (fd (fld v lo (j + i)) :: l) := by
  subst h
  apply BitVec.eq_of_toNat_eq
  rw [toNat_bitsOf, toNat_bitsOf]
  simp only [assemble, fd, toNat_fld]
  have split := Nat.mod_mul (x := v.toNat / 2 ^ lo) (a := 2 ^ j) (b := 2 ^ i)
  rw [Nat.div_div_eq_div_mul, ← Nat.pow_add, ← Nat.pow_add] at split
  rw [split, Nat.zero_mul, Nat.zero_add, Nat.zero_mul, Nat.zero_add, Nat.mul_comm, Nat.add_comm]

@[simp] theorem bitsOf_fd (v : BitVec n) : bitsOf n [fd v] = v :=
  BitVec.eq_of_toNat_eq (by simp [toNat_bitsOf, assemble, fd])

/-! ### P2 -/

@[simp] theorem ArmCond.ofCode_code (c : ArmCond) : ArmCond.ofCode c.code = some c := by cases c <;> rfl

@[simp] theorem ArmAlu.ofOpcode_opcode (a : ArmAlu) : ArmAlu.ofOpcode a.opcode = some a := by cases a <;> rfl

@[simp] theorem ArmIndex.ofBits_bits (m : ArmIndex) : ArmIndex.ofBits m.p m.w = some m := by cases m <;> rfl

/-- What the word of a BX has where a data-processing or load word has its class and its opcode. -/
theorem fields_of_bx {w : Word} (h : fld w 4 24 = 0x12FFF1#24) : fld w 26 2 = 0#2 ∧ fld w 21 4 = 9#4 := by
  rw [← fld_fld w (lo := 4) (i := 22) (k := 24) (by decide), ← fld_fld w (lo := 4) (i := 17) (k := 24) (by decide), h]
  decide

theorem decodeArm_of_bx {c : ArmCond} {w : Word} (hc : fld w 28 4 = c.code) (h : fld w 4 24 = 0x12FFF1#24) :
    decodeArm w = .ok (.armBx c (fld w 0 4)) := by
  rw [decodeArm, hc, ArmCond.ofCode_code]
  exact if_pos h

theorem decodeArm_data {c : ArmCond} {w : Word} (hc : fld w 28 4 = c.code) (h26 : fld w 26 2 = 0#2)
    (hop : fld w 21 4 ≠ 9#4) : decodeArm w = decodeArmData c w := by
  have hbx : fld w 4 24 ≠ 0x12FFF1#24 := fun h => hop (fields_of_bx h).2
  simp [decodeArm, hc, hbx, h26]

theorem decodeArm_load {c : ArmCond} {w : Word} (hc : fld w 28 4 = c.code) (h26 : fld w 26 2 = 1#2) :
    decodeArm w = decodeArmLoad c w := by
  have hbx : fld w 4 24 ≠ 0x12FFF1#24 := fun h => absurd (h26.symm.trans (fields_of_bx h).1) (by decide)
  simp [decodeArm, hc, hbx, h26]

/-- Bits 27:25 = 101: B and BL. -/
theorem decodeArm_class5 {c : ArmCond} {w : Word} (hc : fld w 28 4 = c.code) (h25 : fld w 25 3 = 5#3) :
    decodeArm w = .ok (if bitAt w 24 then .armBl c (fld w 0 24) else .armB c (fld w 0 24)) := by
  have h26 : fld w 26 2 = 2#2 := by
    rw [← fld_fld w (lo := 25) (i := 1) (k := 3) (by decide), h25]
    decide
  have hbx : fld w 4 24 ≠ 0x12FFF1#24 := fun h => absurd (h26.symm.trans (fields_of_bx h).1) (by decide)
  simp [decodeArm, hc, hbx, h26, h25]

/-- Bits 27:26 and 25 of the five classes of words, from the field that the encoder writes them with. -/
theorem armClass_bits :
    (fld 0#3 1 2 = 0#2 ∧ bitAt 0#3 0 = false) ∧ (fld 1#3 1 2 = 0#2 ∧ bitAt 1#3 0 = true) ∧
    (fld 2#3 1 2 = 1#2 ∧ bitAt 2#3 0 = false) ∧ (fld 3#3 1 2 = 1#2 ∧ bitAt 3#3 0 = true) ∧ fld 5#3 1 2 = 2#2 := by
  decide

section
variable (c : ArmCond) (s : Bool) (rn rd rm : BitVec 4) (sh : BitVec 5) (rot : BitVec 4) (imm : BitVec 8)

theorem decodeArm_armImmWord {op : BitVec 4} (h : op ≠ 9#4) :
    decodeArm (armImmWord c op s rn rd rot imm) = decodeArmData c (armImmWord c op s rn rd rot imm) := by
  apply decodeArm_data <;> simp [armImmWord, word32, armClass_bits, h]

theorem decodeArm_armRegWord {op : BitVec 4} (ty : BitVec 3) (h : op ≠ 9#4) :
    decodeArm (armRegWord c op s rn rd sh ty rm) = decodeArmData c (armRegWord c op s rn rd sh ty rm) := by
  apply decodeArm_data <;> simp [armRegWord, word32, armClass_bits, h]

theorem decodeArm_imm (a : ArmAlu) :
    decodeArm (armImmWord c a.opcode s rn rd rot imm) = .ok (a.imm c s rn rd rot imm) := by
  obtain ⟨h9, h13⟩ : a.opcode ≠ 9#4 ∧ a.opcode ≠ 13#4 := by cases a <;> decide
  rw [decodeArm_armImmWord c s rn rd rot imm h9]
  simp [decodeArmData, armImmWord, word32, armClass_bits, h13]

theorem decodeArm_lsl (a : ArmAlu) :
    decodeArm (armRegWord c a.opcode s rn rd sh 0 rm) = .ok (a.lsl c s rn rd sh rm) := by
  obtain ⟨h9, h13⟩ : a.opcode ≠ 9#4 ∧ a.opcode ≠ 13#4 := by cases a <;> decide
  rw [decodeArm_armRegWord c s rn rd rm sh 0 h9]
  simp [decodeArmData, armRegWord, word32, armClass_bits, h13]

theorem decodeArm_lsr (a : ArmAlu) :
    decodeArm (armRegWord c a.opcode s rn rd sh 2 rm) = .ok (a.lsr c s rn rd sh rm) := by
  obtain ⟨h9, h13⟩ : a.opcode ≠ 9#4 ∧ a.opcode ≠ 13#4 := by cases a <;> decide
  rw [decodeArm_armRegWord c s rn rd rm sh 2 h9]
  simp [decodeArmData, armRegWord, word32, armClass_bits, h13]

theorem decodeArm_movImm : decodeArm (armImmWord c 13 s 0 rd rot imm) = .ok (.armMovImm c s rd rot imm) := by
  rw [decodeArm_armImmWord c s 0 rd rot imm (by decide)]
  simp [decodeArmData, armImmWord, word32, armClass_bits]

theorem decodeArm_movLsl : decodeArm (armRegWord c 13 s 0 rd sh 0 rm) = .ok (.armMovLsl c s rd sh rm) := by
  rw [decodeArm_armRegWord c s 0 rd rm sh 0 (by decide)]
  simp [decodeArmData, armRegWord, word32, armClass_bits]

theorem decodeArm_movLsr : decodeArm (armRegWord c 13 s 0 rd sh 2 rm) = .ok (.armMovLsr c s rd sh rm) := by
  rw [decodeArm_armRegWord c s 0 rd rm sh 2 (by decide)]
  simp [decodeArmData, armRegWord, word32, armClass_bits]

theorem decodeArm_ldrImm (m : ArmIndex) (up : Bool) (off : BitVec 12) :
    decodeArm (word32 [fd c.code, fd 2#3, fdb m.p, fdb up, fdb false, fdb m.w, fdb true, fd rn, fd rd, fd off]) =
      .ok (.armLdrImm c m up rn rd off) := by
  rw [decodeArm_load (c := c) (by simp [word32]) (by simp [word32, armClass_bits])]
  simp [decodeArmLoad, word32, armClass_bits]

theorem decodeArm_ldrReg (m : ArmIndex) (up : Bool) (h : rm ≠ 15#4) :
    decodeArm (word32 [fd c.code, fd 3#3, fdb m.p, fdb up, fdb false, fdb m.w, fdb true, fd rn, fd rd, fd sh, fd 0#3,
      fd rm]) = .ok (.armLdrReg c m up rn rd sh rm) := by
  rw [decodeArm_load (c := c) (by simp [word32]) (by simp [word32, armClass_bits])]
  simp [decodeArmLoad, word32, armClass_bits, h]

theorem decodeArm_branch (link : Bool) (off : BitVec 24) :
    decodeArm (word32 [fd c.code, fd 5#3, fdb link, fd off]) = .ok (if link then .armBl c off else .armB c off) := by
  rw [decodeArm_class5 (c := c) (by simp [word32]) (by simp [word32])]
  simp [word32]

theorem decodeArm_bx : decodeArm (word32 [fd c.code, fd 0x12FFF1#24, fd rm]) = .ok (.armBx c rm) := by
  have hbx : fld (word32 [fd c.code, fd 0x12FFF1#24, fd rm]) 4 24 = 0x12FFF1#24 :=
    fld_bitsOf 32 [fd c.code] [fd rm] _ (by simp) (by simp)
  rw [decodeArm_of_bx (c := c) (by simp [word32]) hbx]
  simp [word32]

end

theorem decode_encode_arm (i : Instr) (hp : i.part = .p2) (hw : i.wfWord = true) :
    decode .p2 false (encode false i) = .ok i := by
  cases i with
  | armSubImm c s rn rd rot imm => exact decodeArm_imm c s rn rd rot imm .sub
  | armAddImm c s rn rd rot imm => exact decodeArm_imm c s rn rd rot imm .add
  | armAdcImm c s rn rd rot imm => exact decodeArm_imm c s rn rd rot imm .adc
  | armOrrImm c s rn rd rot imm => exact decodeArm_imm c s rn rd rot imm .orr
  | armSubLsl c s rn rd sh rm => exact decodeArm_lsl c s rn rd rm sh .sub
  | armAddLsl c s rn rd sh rm => exact decodeArm_lsl c s rn rd rm sh .add
  | armAdcLsl c s rn rd sh rm => exact decodeArm_lsl c s rn rd rm sh .adc
  | armOrrLsl c s rn rd sh rm => exact decodeArm_lsl c s rn rd rm sh .orr
  | armSubLsr c s rn rd sh rm => exact decodeArm_lsr c s rn rd rm sh .sub
  | armAddLsr c s rn rd sh rm => exact decodeArm_lsr c s rn rd rm sh .add
  | armAdcLsr c s rn rd sh rm => exact decodeArm_lsr c s rn rd rm sh .adc
  | armOrrLsr c s rn rd sh rm => exact decodeArm_lsr c s rn rd rm sh .orr
  | armMovImm c s rd rot imm => exact decodeArm_movImm c s rd rot imm
  | armMovLsl c s rd sh rm => exact decodeArm_movLsl c s rd rm sh
  | armMovLsr c s rd sh rm => exact decodeArm_movLsr c s rd rm sh
  | armLdrImm c m up rn rd off => exact decodeArm_ldrImm c rn rd m up off
  | armLdrReg c m up rn rd sh rm => exact decodeArm_ldrReg c rn rd rm sh m up (bne_iff_ne.1 hw)
  | armB c off => exact decodeArm_branch c false off
  | armBl c off => exact decodeArm_branch c true off
  | armBx c rm => exact decodeArm_bx c rm
  | _ => cases hp

/-! ### P3 -/

theorem decode_encode_ppc (i : Instr) (hp : i.part = .p3) (hc : i.core = i) :
    decode .p3 false (encode false i) = .ok i := by
  cases i with
  | ppcAddi a b v | ppcLwzu a b v =>
    show decodePpc (word32 [fd _, fd a, fd b, fd v]) = _
    simp [decodePpc, word32]
  | ppcBc bo bi bd aa lk =>
    show decodePpc (word32 [fd 16#6, fd bo, fd bi, fd bd, fdb aa, fdb lk]) = _
    simp [decodePpc, word32]
  | ppcBclr bo bi lk =>
    show decodePpc (ppcBclrWord bo bi lk) = _
    simp [decodePpc, ppcBclrWord, word32]
  | ppcRlwimi rA rS sh mb me rc | ppcRlwinm rA rS sh mb me rc =>
    show decodePpc (ppcMWord _ rS rA sh mb me rc) = _
    simp [decodePpc, ppcMWord, word32]
  | ppcAddc rD rA rB oe rc =>
    show decodePpc (ppcXoWord rD rA rB oe 10 rc) = _
    simp [decodePpc, decodePpc31, ppcXoWord, word32]
  | ppcAddze rD rA oe rc =>
    show decodePpc (ppcXoWord rD rA 0 oe 202 rc) = _
    simp [decodePpc, decodePpc31, ppcXoWord, word32]
  | ppcMtspr n rS =>
    have hxo : fld 467#10 0 9 = 467#9 := by decide
    show decodePpc (ppcMtsprWord n rS) = _
    simp [decodePpc, decodePpc31, ppcMtsprWord, word32, hxo]
  | ppcLi | ppcBlr | ppcMtxer | ppcMtlr | ppcMtctr => cases hc
  | _ => cases hp

/-! ### P4 -/

@[simp] theorem SparcCond.ofCode_code (c : SparcCond) : SparcCond.ofCode c.code = c := by cases c <;> rfl

/-- A format 3 word has its operand, and what is not its operand, where the decoder looks for them (R187, R189). -/
theorem fields_sparcF3 (op : BitVec 2) (rd rs1 : BitVec 5) (op3 : BitVec 6) (op2 : SparcOp2) :
    fld (sparcF3 op rd op3 rs1 op2) 30 2 = op ∧ fld (sparcF3 op rd op3 rs1 op2) 25 5 = rd ∧
    fld (sparcF3 op rd op3 rs1 op2) 19 6 = op3 ∧ fld (sparcF3 op rd op3 rs1 op2) 14 5 = rs1 ∧
    sparcOp2Of (sparcF3 op rd op3 rs1 op2) = op2 ∧
    (bitAt (sparcF3 op rd op3 rs1 op2) 13 = false → fld (sparcF3 op rd op3 rs1 op2) 5 8 = 0#8) := by
  cases op2 <;> simp [sparcF3, sparcOp2Of, word32]

theorem decode_encode_sparc (i : Instr) (hp : i.part = .p4) (hc : i.core = i) :
    decode .p4 false (encode false i) = .ok i := by
  cases i with
  | sparcBicc a c disp =>
    show decodeSparc (word32 [fd 0#2, fdb a, fd c.code, fd 2#3, fd disp]) = _
    simp [decodeSparc, word32]
  | sparcSethi imm rd =>
    show decodeSparc (word32 [fd 0#2, fd rd, fd 4#3, fd imm]) = _
    simp [decodeSparc, word32]
  | sparcAdd rs1 op2 rd | sparcOr rs1 op2 rd | sparcAddx rs1 op2 rd | sparcAddcc rs1 op2 rd | sparcSubcc rs1 op2 rd
  | sparcSll rs1 op2 rd | sparcSrl rs1 op2 rd | sparcJmpl rs1 op2 rd =>
    show decodeSparc (sparcF3 2 rd _ rs1 op2) = _
    simp [decodeSparc, fields_sparcF3]
  | sparcLd rs1 op2 rd =>
    show decodeSparc (sparcF3 3 rd 0 rs1 op2) = _
    simp +contextual [decodeSparc, fields_sparcF3]
  | sparcNop | sparcCmp | sparcJmp | sparcCall | sparcRet | sparcRetl | sparcMov => cases hc
  | _ => cases hp

/-! ### P5 -/

theorem decode_encode_mips (i : Instr) (hp : i.part = .p5) (hc : i.core = i) :
    decode .p5 false (encode false i) = .ok i := by
  cases i with
  | mipsAddiu a b v | mipsOri a b v | mipsBne a b v | mipsLw a v b =>
    show decodeMips (mipsIWord _ _ _ v) = _
    simp [decodeMips, mipsIWord, word32]
  | mipsAddu rd rs rt | mipsSltu rd rs rt =>
    show decodeMips (mipsRWord 0 rs rt rd 0 _) = _
    simp [decodeMips, decodeMipsSpecial, mipsRWord, word32]
  | mipsExt rt rs m lsb | mipsIns rt rs m lsb =>
    show decodeMips (mipsRWord 0x1F rs rt m lsb _) = _
    simp [decodeMips, mipsRWord, word32]
  | mipsJrPre rs =>
    -- the decoder reads two fields as one
    have hz : fld (bitsOf 32 [fd 0#5, fd 0#5, fd 0#5, fd 0x08#6]) 11 10 = 0#10 := by decide
    show decodeMips (mipsRWord 0 rs 0 0 0 0x08) = _
    simp [decodeMips, decodeMipsSpecial, mipsRWord, word32, hz]
  | mipsJrR6 rs =>
    show decodeMips (mipsRWord 0 rs 0 0 0 0x09) = _
    simp [decodeMips, decodeMipsSpecial, mipsRWord, word32]
  | mipsMove | mipsLiAddiu | mipsLiOri => cases hc
  | _ => cases hp

/-! ### P6 -/

/-- The word of `rdcycle` is looked at after every other opcode (spec/45_riscv.md R655). -/
theorem decodeRv32_rdcycle (rd : BitVec 5) : decodeRv32 (rvIWord 0x73 2 rd 0 0xC00) = .ok (.rvRdcycle rd) := by
  revert rd
  decide

theorem decode_encode_rv (i : Instr) (hp : i.part = .p6) (hw : i.wfWord = true) (hc : i.core = i) :
    decode .p6 false (encode false i) = .ok i := by
  cases i with
  | rvLh rd off rs1 | rvLw rd off rs1 | rvLd rd off rs1 | rvLhu rd off rs1 | rvLwu rd off rs1 =>
    show decodeRv32 (rvIWord 0x03 _ rd rs1 off) = _
    simp [decodeRv32, decodeRvLoad, rvIWord, word32]
  | rvAddi rd rs1 imm | rvSlti rd rs1 imm | rvSltiu rd rs1 imm | rvOri rd rs1 imm =>
    show decodeRv32 (rvIWord 0x13 _ rd rs1 imm) = _
    simp [decodeRv32, decodeRvImm, rvIWord, word32]
  | rvNot rd rs1 =>
    show decodeRv32 (rvIWord 0x13 4 rd rs1 0xFFF) = _
    simp [decodeRv32, decodeRvImm, rvIWord, word32]
  | rvAddiw rd rs1 imm =>
    show decodeRv32 (rvIWord 0x1B 0 rd rs1 imm) = _
    simp [decodeRv32, decodeRvImmW, rvIWord, word32]
  | rvSlli rd rs1 shamt | rvSrli rd rs1 shamt =>
    show decodeRv32 (rvShWord 0x13 _ rd rs1 shamt) = _
    simp [decodeRv32, decodeRvImm, rvShWord, word32]
  | rvSlliw rd rs1 shamt | rvSrliw rd rs1 shamt =>
    show decodeRv32 (rvShWord 0x1B _ rd rs1 shamt) = _
    simp [decodeRv32, decodeRvImmW, rvShWord, word32]
  | rvSb rs2 off rs1 | rvSh rs2 off rs1 | rvSw rs2 off rs1 =>
    show decodeRv32 (rvSWord _ rs2 rs1 off) = _
    simp [decodeRv32, decodeRvStore, rvImmS, rvSWord, word32]
  | rvAdd rd rs1 rs2 | rvSll rd rs1 rs2 | rvSlt rd rs1 rs2 | rvSltu rd rs1 rs2 | rvSrl rd rs1 rs2 | rvOr rd rs1 rs2 =>
    show decodeRv32 (rvRWord 0x33 _ 0 rd rs1 rs2) = _
    simp [decodeRv32, decodeRvReg, rvRWord, word32]
  | rvNeg rd rs2 =>
    show decodeRv32 (rvRWord 0x33 0 0x20 rd 0 rs2) = _
    simp [decodeRv32, decodeRvReg, rvRWord, word32]
  | rvAddw rd rs1 rs2 | rvSllw rd rs1 rs2 | rvSraw rd rs1 rs2 | rvRemw rd rs1 rs2 | rvRemuw rd rs1 rs2 =>
    show decodeRv32 (rvRWord 0x3B _ _ rd rs1 rs2) = _
    simp [decodeRv32, decodeRvRegW, rvRWord, word32]
  | rvNegw rd rs2 =>
    show decodeRv32 (rvRWord 0x3B 0 0x20 rd 0 rs2) = _
    simp [decodeRv32, decodeRvRegW, rvRWord, word32]
  | rvLui rd imm =>
    show decodeRv32 (word32 [fd imm, fd rd, fd 0x37#7]) = _
    simp [decodeRv32, word32]
  | rvBne rs1 rs2 off =>
    show decodeRv32 (rvBneWord rs1 rs2 off) = _
    simp [decodeRv32, rvImmB, rvBneWord, word32]
  | rvLrW aq rl rd rs1 | rvLrD aq rl rd rs1 =>
    show decodeRv32 (rvAmoWord 2 aq rl 0 rs1 _ rd) = _
    simp [decodeRv32, decodeRvAmo, rvAmoWord, word32]
  | rvScD aq rl rd rs2 rs1 | rvAmoaddD aq rl rd rs2 rs1 =>
    show decodeRv32 (rvAmoWord _ aq rl rs2 rs1 3 rd) = _
    simp [decodeRv32, decodeRvAmo, rvAmoWord, word32]
  | rvMret | rvSret | rvRet => rfl
  | rvRdcycle rd => exact decodeRv32_rdcycle rd
  | rvCAdd rd rs2 =>
    obtain ⟨hrd, hrs⟩ := Bool.and_eq_true_iff.1 hw
    show decodeRvC (rvCAddHalf rd rs2) = _
    simp [decodeRvC, rvCAddHalf, bne_iff_ne.1 hrd, bne_iff_ne.1 hrs]
  | rvCAddi rd imm =>
    show decodeRvC (rvCAddiHalf rd imm) = _
    simp [decodeRvC, rvCAddiHalf]
  | rvCAddi16sp imm =>
    show decodeRvC (rvCAddi16spHalf imm) = _
    simp [decodeRvC, rvCAddi16spHalf, rvImm16sp, bne_iff_ne.1 hw]
  | rvCAddi4spn rd uimm =>
    show decodeRvC (rvCAddi4spnHalf rd uimm) = _
    simp [decodeRvC, rvCAddi4spnHalf, rvUimm4spn, bne_iff_ne.1 hw]
  | rvNop | rvBnez | rvLi => cases hc
  | _ => cases hp

/-! ### Assembler names -/

/-- An assembler name is of the part of its core. -/
theorem part_core (i : Instr) : i.core.part = i.part := by cases i <;> rfl

/-- An assembler name writes the words of its core (R240). -/
theorem encode_core (csD : Bool) (i : Instr) : encode csD i.core = encode csD i := by cases i <;> rfl

theorem wfWord_core (i : Instr) : i.core.wfWord = i.wfWord := by cases i <;> rfl

theorem core_core (i : Instr) : i.core.core = i.core := by cases i <;> rfl

/-- A core instruction decodes from its word. -/
theorem decode_encode_of_core (i : Instr) (hp : i.part ≠ .p1) (hw : i.wfWord = true) (hc : i.core = i) :
    decode i.part false (encode false i) = .ok i := by
  cases h : i.part with
  | p1 => exact absurd h hp
  | p2 => exact decode_encode_arm i h hw
  | p3 => exact decode_encode_ppc i h hc
  | p4 => exact decode_encode_sparc i h hc
  | p5 => exact decode_encode_mips i h hc
  | p6 => exact decode_encode_rv i h hw hc

/-- Settles O2: each clause is one run of the decoder. -/
theorem decodeKnownWords : Obligations.DecodeKnownWords := by
  unfold Obligations.DecodeKnownWords
  exact ⟨rfl, rfl, rfl, rfl, rfl, rfl, rfl, rfl⟩

/-- Settles O5: an assembler name has the part, the word and the well-formedness of its core. -/
theorem decodeEncodeWords : Obligations.DecodeEncodeWords := by
  unfold Obligations.DecodeEncodeWords
  intro i hp hw
  rw [← encode_core false i, ← part_core i]
  exact decode_encode_of_core i.core (by rwa [part_core]) (by rwa [wfWord_core]) (core_core i)

end Sys2Proof
end

section
/-! PROOFS, the prefixes of P1 (spec/30_encoding.md R158): each is the instruction after it, with one more of
them in force; and what a prefixed MOV writes. -/

namespace Sys2Proof.Machine

/-! ### Prefixes in force -/

section
variable {i : Instr} {s : State} (hi : i.part = .p1)
include hi

theorem exec_opSize (h : s.x86.pfx.op = false) :
    exec (.x86OpSize i) s = exec i (s.withPfx { s.x86.pfx with op := true }) := by
  show opSizeThen (x86Run i) s = _
  rw [opSizeThen, if_neg (by simp [h]), x86Run_eq, if_pos hi]

theorem exec_addrSize (h : s.x86.pfx.addr = false) :
    exec (.x86AddrSize i) s = exec i (s.withPfx { s.x86.pfx with addr := true }) := by
  show addrSizeThen (x86Run i) s = _
  rw [addrSizeThen, if_neg (by simp [h]), x86Run_eq, if_pos hi]

theorem exec_overridden (g : X86Sreg) (h : s.x86.pfx.seg = none) :
    exec (overridden i g) s = exec i (s.withPfx { s.x86.pfx with seg := some g }) := by
  have override : exec (overridden i g) s = overrideThen g (x86Run i) s := by cases g <;> rfl
  rw [override, overrideThen, if_neg (by simp [h]), x86Run_eq, if_pos hi]

end

/-! ### A prefixed MOV -/

/-- What a MOV looks at is the same with other prefixes in force and EIP past the instruction: X86_SEG's answers and
the effective address. -/
theorem X86State.readSeg_withPfx {s : State} {p : X86Pfx} {g : X86Sreg} {off : Word} (i : Instr) (w : Nat)
    (h : s.x86.Allows g off (w / 8) .read) :
    ((s.withPfx p).x86.entered i).readSeg w g off .read =
      .ok (s.x86.mem.read .little top32 w (s.x86.locate g off (w / 8) .read).toNat) := by
  have same : ((s.withPfx p).x86.entered i).view = s.x86.view := rfl
  rw [X86State.readSeg_of_allows _ _ _ _ _ ((X86State.allows_congr same rfl rfl ..).2 h),
    X86State.locate_congr same rfl rfl]
  rfl

theorem X86State.ea_withPfx (s : State) (p : X86Pfx) (i : Instr) (m : X86Mem) :
    ((s.withPfx p).x86.entered i).ea m = s.x86.ea m := by
  cases m <;> rfl

/-- The instruction `j` is the byte `b` before `i`, which makes `q` of the prefixes in force, and `i` ends by writing a
register: so does `j`. The byte counts once in the length, before the instruction or among the prefixes in force. -/
theorem x86Writes_of_prefixed {i j : Instr} {s : State} {q : X86Pfx} {b : Byte} {w : Nat} {r : BitVec 3} {v : BitVec w}
    (hw : IsWidth w) (hexec : exec j s = exec i (s.withPfx q))
    (hbytes : ∀ csD, encodeX86 csD s.x86.pfx j = b :: encodeX86 csD q i) (hcount : q.count = s.x86.pfx.count + 1)
    (h : X86Answers i (s.withPfx q) (.ok (((s.withPfx q).x86.entered i).writeReg r v))) :
    X86Writes j s w (.reg r) v (· = s.x86.flags) := by
  have length : (s.withPfx q).x86.lengthOf i = s.x86.lengthOf j := by
    show q.count + (encodeX86 _ q i).length = s.x86.pfx.count + (encodeX86 _ s.x86.pfx j).length
    rw [hbytes, hcount, List.length_cons, Nat.add_right_comm, ← Nat.add_assoc]
    rfl
  refine ⟨_, hexec.trans h, ⟨?_, ⟨?_, rfl, rfl, rfl, rfl, rfl, rfl, rfl, rfl, rfl, rfl, rfl⟩, fun _ => rfl⟩, rfl, ?_⟩
  · exact X86State.readReg_writeReg ((s.withPfx q).x86.entered i) r v hw
  · exact X86State.keepsRegs_writeReg ((s.withPfx q).x86.entered i) r v
  · exact congrArg (fun n => s.x86.eip + BitVec.ofNat 32 n) length

section
variable {s : State} (hs : s.x86.pfx = .none) (r : BitVec 3)
include hs

/-- 66 before MOV r16/r32, imm. -/
theorem opSize_movRImm (v : BitVec 32) {w : Nat} (hw : w = if s.x86.segs.cs.desc.big then 16 else 32) :
    X86Writes (.x86OpSize (.x86MovRImm r v)) s w (.reg r) (v.setWidth w) (· = s.x86.flags) := by
  have size : (s.withPfx { s.x86.pfx with op := true }).x86.opSize = w := by
    rw [hw]
    show (if s.x86.segs.cs.desc.big != true then 32 else 16) = _
    cases s.x86.segs.cs.desc.big <;> rfl
  refine x86Writes_of_prefixed (b := 0x66#8) (size ▸ X86State.isWidth_opSize _) (exec_opSize rfl (by rw [hs]; rfl))
    (fun _ => rfl) (by rw [hs]; rfl) ?_
  have sized := X86Answers.sized (s := s.withPfx { s.x86.pfx with op := true })
    (body := fun x w => .ok (x.writeReg r (immOp w v))) (i := .x86MovRImm r v) rfl
  rw [size] at sized
  exact sized

/-- 67 before MOV AL, moffs8. -/
theorem addrSize_movAlMoffs (v : BitVec 32) {off : Word}
    (hoff : off = if s.x86.segs.cs.desc.big then (v.setWidth 16).setWidth 32 else v)
    (h : s.x86.Allows .ds off 1 .read) :
    X86Writes (.x86AddrSize (.x86MovAlMoffs v)) s 8 (.reg 0)
      (Memory.read .little top32 8 s.x86.mem (s.x86.locate .ds off 1 .read).toNat) (· = s.x86.flags) := by
  have moffs : ((s.withPfx { s.x86.pfx with addr := true }).x86.entered (.x86MovAlMoffs v)).moffs v = off := by
    rw [hoff]
    show (if s.x86.segs.cs.desc.big != true then v else (v.setWidth 16).setWidth 32) = _
    cases s.x86.segs.cs.desc.big <;> rfl
  have seg : ((s.withPfx { s.x86.pfx with addr := true }).x86.entered (.x86MovAlMoffs v)).moffsSeg = .ds := by
    rw [X86State.moffsSeg]
    exact congrArg (fun p : X86Pfx => p.seg.getD .ds) hs
  refine x86Writes_of_prefixed (b := 0x67#8) (.inl rfl) (exec_addrSize rfl (by rw [hs]; rfl))
    (fun _ => rfl) (by rw [hs]; rfl) ?_
  show finish _ _ (movFromMoffs 8 v _) = _
  rw [movFromMoffs, seg, moffs, X86State.readSeg_withPfx _ 8 h]

/-- An override before MOV r8, m8. -/
theorem overridden_movR8Rm8 (g : X86Sreg) (m : X86Mem) (h : s.x86.Allows g (s.x86.ea m) 1 .read) :
    X86Writes (overridden (.x86MovR8Rm8 r (.mem m)) g) s 8 (.reg r)
      (Memory.read .little top32 8 s.x86.mem (s.x86.locate g (s.x86.ea m) 1 .read).toNat) (· = s.x86.flags) := by
  refine x86Writes_of_prefixed (b := g.override) (.inl rfl) (exec_overridden rfl g (by rw [hs]; rfl))
    (fun _ => by cases g <;> rfl) (by rw [hs]; rfl) ?_
  show finish _ _ (movToReg 8 r (.mem m) _) = _
  have seg : ((s.withPfx { s.x86.pfx with seg := some g }).x86.entered (.x86MovR8Rm8 r (.mem m))).segOf m = g := rfl
  rw [movToReg, X86State.readRM, seg, X86State.ea_withPfx, X86State.readSeg_withPfx _ 8 h]

end

/-- Settles O30: the byte joins the prefixes in force, and each of the three MOVs then looks at the size or the segment
that they give. -/
theorem prefixForms : Obligations.PrefixForms := by
  unfold Obligations.PrefixForms
  refine fun s i hi => ⟨exec_opSize hi, exec_addrSize hi, exec_overridden hi, fun hs r v m w g j =>
    ⟨opSize_movRImm hs r v, addrSize_movAlMoffs hs v rfl, fun hj h => ?_⟩⟩
  have hj : j = overridden (.x86MovR8Rm8 r (.mem m)) g := by
    simp only [List.mem_cons, Prod.mk.injEq, List.not_mem_nil, or_false] at hj
    rcases hj with ⟨rfl, rfl⟩ | ⟨rfl, rfl⟩ | ⟨rfl, rfl⟩ | ⟨rfl, rfl⟩ | ⟨rfl, rfl⟩ | ⟨rfl, rfl⟩ <;> rfl
  rw [hj]
  exact overridden_movR8Rm8 hs r g m h

end Sys2Proof.Machine
end

section
/-! PROOFS, the step (spec/40_ia32.md R250; spec/41_arm.md R330; spec/42_powerpc.md R390; spec/43_sparc.md R450;
spec/44_mips32.md R530; spec/45_riscv.md R580): what is fetched and decodes is executed, and what is not stops the step
by name. -/

namespace Sys2Proof.Machine

/-! ### From a fetch to a step -/

section
variable {s : State} (hb : beforeFetch s = none)
include hb

theorem step_of_fetch_raises {e : Exception} (hf : fetch s = .error (.raises e)) : step s = takeException e s := by
  rw [step, hb, hf]
  rfl

/-- A fetch that ends with a decoder's answer. -/
theorem step_of_decoded {d : Decoded Instr} (hf : fetch s = decoded d) (i : Instr) (e : DecodeErr) :
    (d = .ok i → step s = exec i s) ∧ (d = .error e → step s = .refused (.undecodable e)) := by
  refine ⟨fun hd => ?_, fun hd => step_of_fetch_refused hb (by rw [hf, hd]; rfl)⟩
  subst hd
  rw [step, hb, hf]
  rfl

end

/-! ### P1: the code bytes -/

/-- The `n` code bytes from `off` up. -/
def X86State.code (x : X86State) (off : Word) (n : Nat) : List Byte :=
  (List.range n).map fun j => x.mem.get (x.codeAt (off + BitVec.ofNat 32 j))

/-- A code byte that X86_SEG refuses (spec/20_memory.md R109). -/
theorem X86State.codeByte_of_faults {x : X86State} {off : Word} {e : X86Exc} (h : x.xseg .cs off 1 .fetch = .error e) :
    x.codeByte off = .error (.raises (.x86 e)) := by
  rw [X86State.codeByte, h]

section
variable {x : X86State} {n : Nat} (hf : ∀ j, j < n → x.Fetchable (x.eip + BitVec.ofNat 32 j))
include hf

/-- Bytes that settle the decoder's answer are all that a fetch looks at. -/
theorem X86State.fetch_of_settled (hn : n ≤ x86MaxLength)
    (hd : decode .p1 x.segs.cs.desc.big (.bytes (x.code x.eip n)) ≠ .error .short) :
    x.fetch = decoded (decode .p1 x.segs.cs.desc.big (.bytes (x.code x.eip n))) := by
  have settled (rest : List Byte) : decode .p1 x.segs.cs.desc.big (.bytes (x.code x.eip n ++ rest)) =
      decode .p1 x.segs.cs.desc.big (.bytes (x.code x.eip n)) := settles_decodeX86 _ _ _ rest hd
  have bytes := x.codeBytes_of_fetchable n x86MaxLength x.eip hn hf
  unfold X86State.fetch
  rw [bytes]
  dsimp only
  rw [← X86State.code, settled]
  split
  · exact absurd ‹_› hd
  · rfl

/-- A byte that the decoder needs and that cannot be fetched stops the fetch. -/
theorem X86State.fetch_of_stop (hn : n < x86MaxLength)
    (hd : decode .p1 x.segs.cs.desc.big (.bytes (x.code x.eip n)) = .error .short) {e : Stop State}
    (he : x.codeByte (x.eip + BitVec.ofNat 32 n) = .error e) : x.fetch = .error e := by
  have bytes := x.codeBytes_of_stop n x86MaxLength x.eip e hn hf he
  unfold X86State.fetch
  rw [bytes, ← X86State.code]
  dsimp only
  rw [hd]

end

/-! ### P2, P5, P6: the checks before the word is read -/

theorem ArmState.fetch_of_aligned {a : ArmState} (ht : a.t = false) (hpc : a.pc.extractLsb' 0 2 = 0#2) :
    a.fetch = decoded (decode .p2 false (.word (a.mem.read a.params.order top32 32 a.pc.toNat))) := by
  rw [ArmState.fetch, if_neg (Bool.eq_false_iff.1 ht), if_neg (not_not.2 hpc)]

theorem MipsState.fetch_of_aligned {p : MipsState} (hi : p.isaMode = 0#1) (hpc : p.pc.extractLsb' 0 2 = 0#2) :
    p.fetch = decoded (decode .p5 false (.word (p.mem.read p.params.order top32 32 p.pc.toNat))) := by
  rw [MipsState.fetch, if_neg (by rw [hi]; decide), if_neg (not_not.2 hpc)]

theorem RvState.codeStored_eq_false {p : RvState} {n : Nat} (h : ∀ j, j < n → (p.pc.toNat + j) % p.top ∉ p.stored) :
    ¬ p.codeStored n = true := fun hs => by
  obtain ⟨j, hj, hin⟩ := (p.codeStored_iff n).1 hs
  exact h j hj hin

/-- A halfword whose low bits ask for no second one (spec/45_riscv.md R580). -/
theorem RvState.fetch_of_half {p : RvState} (hs : ∀ j, j < 2 → (p.pc.toNat + j) % p.top ∉ p.stored)
    (hlow : (Memory.read .little p.top 16 p.mem p.pc.toNat).extractLsb' 0 2 ≠ 3#2) :
    p.fetch = decoded (decode .p6 false (.half (Memory.read .little p.top 16 p.mem p.pc.toNat))) := by
  unfold RvState.fetch
  dsimp only
  rw [if_neg (RvState.codeStored_eq_false hs), if_pos hlow]

theorem RvState.fetch_of_word {p : RvState} (hs : ∀ j, j < 4 → (p.pc.toNat + j) % p.top ∉ p.stored)
    (hlow : (Memory.read .little p.top 16 p.mem p.pc.toNat).extractLsb' 0 2 = 3#2) :
    p.fetch = decoded (decode .p6 false (.word (Memory.read .little p.top 32 p.mem p.pc.toNat))) := by
  unfold RvState.fetch
  dsimp only
  rw [if_neg (RvState.codeStored_eq_false fun j hj => hs j (by omega)), if_neg (not_not.2 hlow),
    if_neg (RvState.codeStored_eq_false hs)]

/-- Settles O1: the fetch of each part ends with the decoder's answer, or with what stops it before. -/
theorem stepRunsDecoded : Obligations.StepRunsDecoded := by
  unfold Obligations.StepRunsDecoded
  intro s i e ends
  refine ⟨fun n hp hsd hn hf => ?p1, fun hp => ?p2, fun hp => ?p3, fun hp ha => ?p4, fun hp => ?p5, fun hp => ?p6⟩
  case p1 =>
    have before : beforeFetch s = none := by
      rw [beforeFetch, hp]
      exact if_neg (Bool.eq_false_iff.1 hsd)
    have fetched : fetch s = s.x86.fetch := by rw [fetch, hp]
    refine ⟨fun hd => step_of_decoded before (fetched.trans (X86State.fetch_of_settled hf hn hd)) i e,
      fun hd hn x hx => step_of_fetch_raises before (fetched.trans ?_)⟩
    exact X86State.fetch_of_stop hf hn hd (X86State.codeByte_of_faults hx)
  case p2 =>
    have before : beforeFetch s = none := by rw [beforeFetch, hp]
    have fetched : fetch s = s.arm.fetch := by rw [fetch, hp]
    refine ⟨fun ht => ?_, fun ht hpc => ?_, fun ht hpc =>
      step_of_decoded before (fetched.trans (ArmState.fetch_of_aligned ht hpc)) i e⟩
    · exact step_of_fetch_refused before (fetched.trans (if_pos ht))
    · exact step_of_fetch_refused before (fetched.trans ((if_neg (Bool.eq_false_iff.1 ht)).trans (if_pos hpc)))
  case p3 => exact step_of_decoded (by rw [beforeFetch, hp]) (by rw [fetch, hp]; rfl) i e
  case p4 =>
    refine step_of_decoded ?_ (by rw [fetch, hp]; rfl) i e
    rw [beforeFetch, hp]
    exact if_neg (Bool.eq_false_iff.1 ha)
  case p5 =>
    have before : beforeFetch s = none := by rw [beforeFetch, hp]
    have fetched : fetch s = s.mips.fetch := by rw [fetch, hp]
    refine ⟨fun hi => ?_, fun hi hpc => ?_, fun hi hpc =>
      step_of_decoded before (fetched.trans (MipsState.fetch_of_aligned hi hpc)) i e⟩
    · exact step_of_fetch_refused before (fetched.trans (if_pos hi))
    · exact step_of_fetch_raises before (fetched.trans ((if_neg (by rw [hi]; decide)).trans (if_pos hpc)))
  case p6 =>
    have before : beforeFetch s = none := by rw [beforeFetch, hp]
    have fetched : fetch s = s.rv.fetch := by rw [fetch, hp]
    exact ⟨fun hs hlow => step_of_decoded before (fetched.trans (RvState.fetch_of_half hs hlow)) i e,
      fun hs hlow => step_of_decoded before (fetched.trans (RvState.fetch_of_word hs hlow)) i e⟩

end Sys2Proof.Machine
end

section
/-! PROOFS, P1: what every form shares (spec/40_ia32.md R250 to R254): a body that completes, and the registers and
control bits that it keeps. -/

namespace Sys2Proof.Machine

/-! ### From a body to a step -/

/-- A body that completes, and what P1 is then, the prefixes gone. -/
theorem X86Answers.completes {i : Instr} {s : State} {b : Body X86State} {y : X86State} {P : X86State → Prop}
    (h : X86Answers i s b) (hb : b = .ok y) (hP : P { y with pfx := .none }) : X86Completes i s P := by
  subst hb
  exact ⟨_, h, hP⟩

/-! ### What an instruction keeps -/

/-- An instruction keeps what its body kept: dropping the prefixes changes nothing else. -/
theorem X86State.keeps_of {parts : List (Nat × BitVec 3)} {x y : X86State} (regs : X86State.KeepsRegs parts x y)
    (segs : y.segs = x.segs) (inhibit : y.inhibitNext = false) (shutdown : y.shutdown = x.shutdown)
    (system : y.system = x.system) : X86State.Keeps parts x { y with pfx := .none } := by
  obtain ⟨hpe, hvm, hiopl, hcpl, hac, hie, hparams⟩ := X86System.mk.inj system
  exact ⟨regs, segs, inhibit, hpe, hvm, hiopl, hcpl, hac, hie, shutdown, hparams, rfl⟩

end Sys2Proof.Machine
end

section
/-! PROOFS, P1: XOR, ADD and ADC (spec/40_ia32.md R252, R265, R270, R272). The three families have the same nine forms,
each a use of one of three bodies, so what a form writes is proved once for a family and its operation. -/

namespace Sys2Proof.Machine

/-! ### The operations -/

/-- The operation of a family. -/
def aluOp : X86Alu → AluOp
  | .add => addOp
  | .adc => adcOp
  | .xor => xorOp

/-- In state `x` the operation makes `v` of `a` and `b`; of the state it changes the flags, which are then as `F` says,
and the count of drawn values. -/
def AluOp.Gives (op : AluOp) (x : X86State) (a b v : BitVec w) (F : X86Flags → Prop) : Prop :=
  ∃ f d, op w x a b = (v, { x with flags := f, draws := d }) ∧ F f

theorem resultFlags_of {r : BitVec w} {f : X86Flags} (hs : f.sf = r.msb) (hz : f.zf = (r == 0)) (hp : f.pf = parity r) :
    ResultFlags r f :=
  ⟨hs, by rw [hz, beq_iff_eq], by rw [hp, parity_iff]⟩

theorem sumFlags_x86AddFlags (a b : BitVec w) (c : Bool) (hw : 0 < w) : SumFlags a b c (x86AddFlags a b c) := by
  refine ⟨carryFrom_iff a b c, overflowAdd_iff a b c hw, decide_eq_true_iff, ?_⟩
  rw [← addWith_eq]
  exact resultFlags_of rfl rfl rfl

section
variable (x : X86State) (a b : BitVec w)

theorem addOp_gives (hw : 0 < w) : addOp.Gives x a b (a + b) (SumFlags a b false) :=
  ⟨_, x.draws, Prod.ext (addWith_false a b) rfl, sumFlags_x86AddFlags a b false hw⟩

theorem adcOp_gives (hw : 0 < w) :
    adcOp.Gives x a b (a + b + if x.flags.cf then 1 else 0) (SumFlags a b x.flags.cf) := by
  have sum (c : Bool) : addWith a b c = a + b + if c then 1 else 0 := by
    rw [addWith]
    congr 1
    apply BitVec.eq_of_toNat_eq
    cases c <;> simp
  exact ⟨_, x.draws, Prod.ext (sum _) rfl, sumFlags_x86AddFlags a b x.flags.cf hw⟩

theorem xorOp_gives : xorOp.Gives x a b (a ^^^ b) (LogicFlags (a ^^^ b)) :=
  ⟨_, _, rfl, rfl, rfl, resultFlags_of rfl rfl rfl⟩

end

/-! ### The three bodies -/

section
variable {i : Instr} {s : State} {w : Nat} (hm : Memory.wf top32 s.x86.mem) (hw : IsWidth w) {op : AluOp} {v : BitVec w}
  {F : X86Flags → Prop}
include hm hw

theorem x86Writes_of_aluToRM {rm : X86RM} {src : BitVec w} (hu : s.x86.Updates w rm)
    (hop : op.Gives (s.x86.entered i) (s.x86.operand w rm) src v F)
    (h : X86Answers i s (aluToRM op w rm src (s.x86.entered i))) : X86Writes i s w rm v F := by
  obtain ⟨hread, hwrite⟩ := hu
  obtain ⟨f, d, value, flags⟩ := hop
  rw [aluToRM, readRM_entered i s w rm hread] at h
  dsimp only at h
  rw [value] at h
  exact x86Writes_of i s w hw rm v F f d hm hwrite flags h

theorem x86Writes_of_aluToReg {r : BitVec 3} {rm : X86RM} (hr : s.x86.Reaches w rm .read)
    (hop : op.Gives (s.x86.entered i) (s.x86.readReg w r) (s.x86.operand w rm) v F)
    (h : X86Answers i s (aluToReg op w r rm (s.x86.entered i))) : X86Writes i s w (.reg r) v F := by
  obtain ⟨f, d, value, flags⟩ := hop
  rw [aluToReg, readRM_entered i s w rm hr] at h
  dsimp only [X86State.entered_readReg] at h
  rw [value] at h
  exact x86Writes_of i s w hw (.reg r) v F f d hm trivial flags h

theorem x86Writes_of_aluToAcc {src : BitVec w} (hop : op.Gives (s.x86.entered i) (s.x86.readReg w eax) src v F)
    (h : X86Answers i s (aluToAcc op w src (s.x86.entered i))) : X86Writes i s w (.reg eax) v F := by
  obtain ⟨f, d, value, flags⟩ := hop
  rw [aluToAcc, X86State.entered_readReg, value] at h
  exact x86Writes_of i s w hw (.reg eax) v F f d hm trivial flags h

end

/-! ### The nine forms -/

/-- What the nine forms of a family write to their destination, where the operation makes `val` of destination and
source and leaves the flags as `F` says. -/
theorem aluForms (a : X86Alu) {s : State} {w : Nat} (hm : Memory.wf top32 s.x86.mem) (hw : w = s.x86.opSize)
    {val : (w : Nat) → BitVec w → BitVec w → BitVec w} {F : (w : Nat) → BitVec w → BitVec w → X86Flags → Prop}
    (hop : ∀ i w, IsWidth w → ∀ p q : BitVec w, AluOp.Gives (aluOp a) (s.x86.entered i) p q (val w p q) (F w p q))
    (rm : X86RM) (r : BitVec 3) (i8 : BitVec 8) (i32 : BitVec 32) :
    let writes (i : Instr) (w : Nat) (dst : X86RM) (src : BitVec w) : Prop :=
      X86Writes i s w dst (val w (s.x86.operand w dst) src) (F w (s.x86.operand w dst) src)
    writes (a.alImm8 i8) 8 (.reg 0) i8 ∧
    writes (a.axImm i32) w (.reg 0) (i32.setWidth w) ∧
    (s.x86.Updates 8 rm → writes (a.rm8Imm8 rm i8) 8 rm i8) ∧
    (s.x86.Updates w rm → writes (a.rmImm rm i32) w rm (i32.setWidth w)) ∧
    (s.x86.Updates w rm → writes (a.rmImm8 rm i8) w rm (i8.signExtend w)) ∧
    (s.x86.Updates 8 rm → writes (a.rm8R8 rm r) 8 rm (s.x86.readReg 8 r)) ∧
    (s.x86.Updates w rm → writes (a.rmR rm r) w rm (s.x86.readReg w r)) ∧
    (s.x86.Reaches 8 rm .read → writes (a.r8Rm8 r rm) 8 (.reg r) (s.x86.operand 8 rm)) ∧
    (s.x86.Reaches w rm .read → writes (a.rRm r rm) w (.reg r) (s.x86.operand w rm)) := by
  intro writes
  subst hw
  have byte : IsWidth 8 := .inl rfl
  have sized : IsWidth s.x86.opSize := s.x86.isWidth_opSize
  refine ⟨?alImm8, ?axImm, fun hu => ?rm8Imm8, fun hu => ?rmImm, fun hu => ?rmImm8, fun hu => ?rm8R8, fun hu => ?rmR,
    fun hr => ?r8Rm8, fun hr => ?rRm⟩
  case alImm8 =>
    exact x86Writes_of_aluToAcc hm byte (hop _ _ byte _ _) (by cases a <;> rfl)
  case axImm =>
    exact x86Writes_of_aluToAcc hm sized (hop _ _ sized _ _)
      (X86Answers.sized (body := fun x w => aluToAcc (aluOp a) w (immOp w i32) x) (by cases a <;> rfl))
  case rm8Imm8 =>
    exact x86Writes_of_aluToRM hm byte hu (hop _ _ byte _ _) (by cases a <;> rfl)
  case rmImm =>
    exact x86Writes_of_aluToRM hm sized hu (hop _ _ sized _ _)
      (X86Answers.sized (body := fun x w => aluToRM (aluOp a) w rm (immOp w i32) x) (by cases a <;> rfl))
  case rmImm8 =>
    exact x86Writes_of_aluToRM hm sized hu (hop _ _ sized _ _)
      (X86Answers.sized (body := fun x w => aluToRM (aluOp a) w rm (immSext w i8) x) (by cases a <;> rfl))
  case rm8R8 =>
    exact x86Writes_of_aluToRM hm byte hu (hop _ _ byte _ _) (by cases a <;> rfl)
  case rmR =>
    exact x86Writes_of_aluToRM hm sized hu (hop _ _ sized _ _)
      (X86Answers.sized (body := fun x w => aluToRM (aluOp a) w rm (x.readReg w r) x) (by cases a <;> rfl))
  case r8Rm8 =>
    exact x86Writes_of_aluToReg hm byte hr (hop _ _ byte _ _) (by cases a <;> rfl)
  case rRm =>
    exact x86Writes_of_aluToReg hm sized hr (hop _ _ sized _ _)
      (X86Answers.sized (body := fun x w => aluToReg (aluOp a) w r rm x) (by cases a <;> rfl))

theorem IsWidth.pos {w : Nat} (h : IsWidth w) : 0 < w := by omega

/-- Settles O19: the nine forms of the family XOR. -/
theorem xorForms : Obligations.XorForms := by
  unfold Obligations.XorForms
  intro s w rm r i8 i32 hm hw
  exact aluForms .xor hm hw (fun _ _ _ p q => xorOp_gives _ p q) rm r i8 i32

/-- Settles O20: the nine forms of the family ADD. -/
theorem addForms : Obligations.AddForms := by
  unfold Obligations.AddForms
  intro s w rm r i8 i32 hm hw
  exact aluForms .add hm hw (fun _ _ width p q => addOp_gives _ p q width.pos) rm r i8 i32

/-- Settles O21: the nine forms of the family ADC, whose carry in is the CF before the instruction. -/
theorem adcForms : Obligations.AdcForms := by
  unfold Obligations.AdcForms
  intro s w rm r i8 i32 hm hw
  exact aluForms .adc hm hw (val := fun _ p q => p + q + if s.x86.flags.cf then 1 else 0)
    (F := fun _ p q => SumFlags p q s.x86.flags.cf)
    (fun i _ width p q => adcOp_gives (s.x86.entered i) p q width.pos) rm r i8 i32

end Sys2Proof.Machine
end

section
/-! PROOFS, P1: PUSH (spec/40_ia32.md R253, R260 to R262). Every form is a push of one value behind the test for the
shutdown. -/

namespace Sys2Proof.Machine

/-! ### A value pushed -/

/-- An instruction that pushes `v`, with values drawn before. -/
theorem X86Answers.pushes {i : Instr} {s : State} {w : Nat} {v : BitVec w} {d : Nat} (hw : IsWidth w)
    (hm : Memory.wf top32 s.x86.mem) (hp : s.x86.CanPush (w / 8))
    (h : X86Answers i s (X86State.push { s.x86.entered i with draws := d } v)) : X86Pushes i s w v := by
  obtain ⟨-, inside, allowed⟩ := hp
  refine h.completes (X86State.push_of_allows { s.x86.entered i with draws := d } v inside allowed)
    ⟨?top, ?stored, X86State.keeps_of ?regs ?segs ?inhibit ?shutdown ?system, ?flags, ?eip⟩
  case top => exact X86State.topOfStack_setSp_stackUp (X86State.store { s.x86.entered i with draws := d } _ v) _
  case stored =>
    show Memory.Stored .little top32 s.x86.mem (X86State.setSp _ _).mem _ v
    rw [X86State.setSp_mem]
    exact s.x86.stored_store _ v hw hm
  case regs => exact X86State.keepsRegs_setSp (X86State.store { s.x86.entered i with draws := d } _ v) _
  case segs => exact X86State.setSp_segs ..
  case inhibit => exact X86State.setSp_inhibitNext ..
  case shutdown => exact X86State.setSp_shutdown ..
  case system => exact X86State.system_setSp ..
  case flags => exact X86State.setSp_flags ..
  case eip => exact X86State.setSp_eip ..

/-! ### Selectors -/

/-- Two fields make the one value. -/
theorem bitsOf_pair (u : BitVec m) (v : BitVec n) : bitsOf (m + n) [fd u, fd v] = u ++ v := by
  apply BitVec.eq_of_toNat_eq
  have fits : u.toNat * 2 ^ n + v.toNat < 2 ^ (m + n) := by
    have value := (u ++ v).isLt
    rwa [BitVec.toNat_append, ← Nat.shiftLeft_add_eq_or_of_lt v.isLt, Nat.shiftLeft_eq] at value
  rw [toNat_bitsOf, BitVec.toNat_append, ← Nat.shiftLeft_add_eq_or_of_lt v.isLt, Nat.shiftLeft_eq]
  simp only [assemble, fd, Nat.zero_mul, Nat.zero_add]
  exact Nat.mod_eq_of_lt fits

section
variable {i : Instr} {s : State} {g : X86Sreg} (hi : exec i s = x86Do i (pushSelector g) s)
  (hm : Memory.wf top32 s.x86.mem)
include hi hm

theorem pushes_selector16 (hop : s.x86.op32 = false) (hp : s.x86.CanPush 2) :
    X86Pushes i s 16 (s.x86.segs.get g).sel := by
  refine X86Answers.pushes (d := s.x86.draws) (by decide) hm hp ?_
  rw [X86Answers, hi, x86Do, pushSelector, (s.x86.entered i).guardPush_of _ hp.1]
  exact congrArg _ (if_neg (Bool.eq_false_iff.1 hop))

/-- The upper half is the value drawn (spec/92_eei_decisions.md D13). -/
theorem pushes_selector32 (hop : s.x86.op32 = true) (hp : s.x86.CanPush 4) :
    X86Pushes i s 32 (Config.x86Free 16 s.x86.draws ++ (s.x86.segs.get g).sel) := by
  refine X86Answers.pushes (d := s.x86.draws + 1) (by decide) hm hp ?_
  rw [X86Answers, hi, x86Do, pushSelector, (s.x86.entered i).guardPush_of _ hp.1]
  refine congrArg _ ((if_pos hop).trans ?_)
  exact congrArg (X86State.push _) (bitsOf_pair _ _)

end

/-- The segment register that a PUSH of one pushes (spec/40_ia32.md R261). -/
theorem exec_pushSelector {i : Instr} {g : X86Sreg} (s : State)
    (hi : (i, g) ∈ [(Instr.x86PushCs, X86Sreg.cs), (.x86PushSs, .ss), (.x86PushDs, .ds), (.x86PushEs, .es),
      (.x86PushFs, .fs), (.x86PushGs, .gs)]) : exec i s = x86Do i (pushSelector g) s := by
  simp only [List.mem_cons, Prod.mk.injEq, List.not_mem_nil, or_false] at hi
  rcases hi with ⟨rfl, rfl⟩ | ⟨rfl, rfl⟩ | ⟨rfl, rfl⟩ | ⟨rfl, rfl⟩ | ⟨rfl, rfl⟩ | ⟨rfl, rfl⟩ <;> rfl

/-- Settles O17: the selector itself, or below a drawn value. -/
theorem pushSelectors : Obligations.PushSelectors := by
  unfold Obligations.PushSelectors
  intro s i g hi hm
  have runs := exec_pushSelector s hi
  exact ⟨pushes_selector16 runs hm, fun hop hp => ⟨_, pushes_selector32 runs hm hop hp⟩⟩

/-! ### The shutdown -/

/-- A push leaves the shutdown latch alone. -/
theorem X86State.shutdown_push (x : X86State) (v : BitVec w) : Leaves X86State.shutdown x.shutdown (x.push v) := by
  unfold X86State.push X86State.writeSeg
  refine leaves_ite leaves_error ?_
  cases x.xseg .ss (x.spPlus (-(BitVec.ofNat 32 (w / 8)))) (w / 8) .stackWrite with
  | error e => exact leaves_error
  | ok a => exact leaves_ok.2 (X86State.setSp_shutdown ..)

/-- A PUSH form tests for the shutdown first, and what it does otherwise leaves the latch alone. -/
def GuardsPush (i : Instr) (s : State) : Prop :=
  ∃ body, X86Answers i s ((s.x86.entered i).guardPush body) ∧ Leaves X86State.shutdown s.x86.shutdown body

theorem guardsPush_sized {i : Instr} {s : State} {body : X86State → Nat → Body X86State}
    (hi : exec i s = x86Do i (fun x => x.guardPush (x.atOpSize (body x))) s)
    (hb : Leaves X86State.shutdown s.x86.shutdown (body (s.x86.entered i) s.x86.opSize)) : GuardsPush i s :=
  ⟨_, hi, by rwa [X86State.atOpSize_eq, X86State.entered_opSize]⟩

theorem guardsPush_selector {i : Instr} {s : State} {g : X86Sreg} (hi : exec i s = x86Do i (pushSelector g) s) :
    GuardsPush i s :=
  ⟨_, hi, leaves_ite (X86State.shutdown_push ((s.x86.entered i).draw 16).2 _) (X86State.shutdown_push _ _)⟩

theorem guardsPush_of_push {i : Instr} {s : State} {rm : X86RM} {r : BitVec 3} {i8 : BitVec 8} {i32 : BitVec 32}
    (hi : i ∈ Instr.x86PushRm rm :: pushForms r i8 i32) : GuardsPush i s := by
  simp only [pushForms, List.mem_cons, List.not_mem_nil, or_false] at hi
  rcases hi with rfl | rfl | rfl | rfl | rfl | rfl | rfl | rfl | rfl | rfl
  · refine guardsPush_sized (body := fun x w => match x.readRM w rm with
      | .ok v => x.push v
      | .error e => .error e) rfl ?_
    cases (s.x86.entered (.x86PushRm rm)).readRM s.x86.opSize rm with
    | ok v => exact X86State.shutdown_push _ v
    | error e => exact leaves_error
  · exact guardsPush_sized (body := fun x w => x.push (x.readReg w r)) rfl (X86State.shutdown_push _ _)
  · exact guardsPush_sized (body := fun x w => x.push (immSext w i8)) rfl (X86State.shutdown_push _ _)
  · exact guardsPush_sized (body := fun x w => x.push (immOp w i32)) rfl (X86State.shutdown_push _ _)
  all_goals exact guardsPush_selector rfl

/-- Settles O18: the latch is set where the test says, and by nothing else; a step looks at it first. -/
theorem pushShutsDown : Obligations.PushShutsDown := by
  unfold Obligations.PushShutsDown
  intro s i rm r i8 i32 hi
  obtain ⟨body, answers, latch⟩ := guardsPush_of_push (s := s) hi
  refine ⟨fun hx => ?_, fun hx => ?_, fun t hp ht => ?_⟩
  · exact answers.completes (if_pos ((X86State.stackExhausted_eq _).2 hx)) ⟨rfl, rfl, rfl, rfl, rfl⟩
  · rw [X86Answers, (s.x86.entered i).guardPush_of _ hx] at answers
    rw [answers]
    exact nexts_finish (P := fun t => t.x86.shutdown = s.x86.shutdown) latch fun _ h => h
  · have before : beforeFetch t = some (.fault (.stuck t)) := by
      rw [beforeFetch, hp]
      exact if_pos ht
    rw [step, before]

end Sys2Proof.Machine

namespace Sys2Proof

open Machine

/-- Settles O16: the operand is read, and pushed, before the stack pointer moves. -/
theorem pushForms : Obligations.PushForms := by
  unfold Obligations.PushForms
  intro s w rm r i8 i32 hm hw hp
  subst hw
  have guarded {i : Instr} {body : X86State → Nat → Body X86State} {v : BitVec s.x86.opSize}
      (hi : exec i s = x86Do i (fun x => x.guardPush (x.atOpSize (body x))) s)
      (hb : body (s.x86.entered i) s.x86.opSize = (s.x86.entered i).push v) : X86Pushes i s s.x86.opSize v := by
    have answers := X86Answers.guarded hi hp.1
    rw [hb] at answers
    exact X86Answers.pushes (d := s.x86.draws) s.x86.isWidth_opSize hm hp answers
  refine ⟨fun hr => guarded (body := fun x w => match x.readRM w rm with
      | .ok v => x.push v
      | .error e => .error e) rfl ?_,
    guarded (body := fun x w => x.push (x.readReg w r)) rfl rfl,
    guarded (body := fun x w => x.push (immSext w i8)) rfl rfl,
    guarded (body := fun x w => x.push (immOp w i32)) rfl rfl⟩
  rw [readRM_entered _ s _ rm hr]

end Sys2Proof
end

section
/-! PROOFS, P1: MOV between registers, memory, immediates and moffs (spec/40_ia32.md R266, R267), and MOV from a segment
register (R268). -/

namespace Sys2Proof.Machine

/-! ### A register or an r/m operand written, and no flag -/

section
variable {i : Instr} {s : State} {w : Nat} {v : BitVec w} (hm : Memory.wf top32 s.x86.mem) (hw : IsWidth w)
include hm hw

/-- An instruction that writes `v` to an r/m operand and does nothing else. -/
theorem X86Answers.moves {dst : X86RM} (hd : s.x86.Reaches w dst .write)
    (h : X86Answers i s ((s.x86.entered i).writeRM dst v)) : X86Writes i s w dst v (· = s.x86.flags) :=
  x86Writes_of i s w hw dst v _ s.x86.flags s.x86.draws hm hd rfl h

theorem X86Answers.movesToReg {r : BitVec 3} {rm : X86RM} (hr : s.x86.Reaches w rm .read)
    (h : X86Answers i s (movToReg w r rm (s.x86.entered i))) :
    X86Writes i s w (.reg r) (s.x86.operand w rm) (· = s.x86.flags) := by
  rw [movToReg, readRM_entered i s w rm hr] at h
  exact X86Answers.moves hm hw (dst := .reg r) trivial h

theorem X86Answers.movesFromMoffs {off : BitVec 32}
    (ha : s.x86.Allows s.x86.moffsSeg (s.x86.moffs off) (w / 8) .read)
    (h : X86Answers i s (movFromMoffs w off (s.x86.entered i))) :
    X86Writes i s w (.reg eax) (Memory.read .little top32 w s.x86.mem (s.x86.moffsAt off (w / 8) .read))
      (· = s.x86.flags) := by
  have read := X86State.readSeg_of_allows w (s.x86.entered i) (s.x86.entered i).moffsSeg ((s.x86.entered i).moffs off)
    .read ha
  rw [movFromMoffs, read] at h
  exact X86Answers.moves hm hw (dst := .reg eax) trivial h

/-- An instruction that stores `v` at `a` and does nothing else. -/
theorem X86Answers.stores {a : Word} (h : X86Answers i s (.ok ((s.x86.entered i).store a v))) :
    X86Completes i s fun y => Memory.Stored .little top32 s.x86.mem y.mem a.toNat v ∧ X86State.Keeps [] s.x86 y ∧
      y.flags = s.x86.flags ∧ X86State.Passes i s.x86 y :=
  h.completes rfl ⟨s.x86.stored_store a v hw hm, X86State.keeps_of (fun _ _ _ => rfl) rfl rfl rfl rfl, rfl, rfl⟩

theorem X86Answers.storesToMoffs {off : BitVec 32}
    (ha : s.x86.Allows s.x86.moffsSeg (s.x86.moffs off) (w / 8) .write)
    (h : X86Answers i s ((s.x86.entered i).writeSeg s.x86.moffsSeg (s.x86.moffs off) .write v)) :
    X86Completes i s fun y => Memory.Stored .little top32 s.x86.mem y.mem (s.x86.moffsAt off (w / 8) .write) v ∧
      X86State.Keeps [] s.x86 y ∧ y.flags = s.x86.flags ∧ X86State.Passes i s.x86 y := by
  rw [X86State.writeSeg_of_allows (s.x86.entered i) _ _ _ v ha] at h
  exact X86Answers.stores hm hw h

end

/-- Settles O22: a form reads its source, if that is in memory, and writes it to its destination. -/
theorem movForms : Obligations.MovForms := by
  unfold Obligations.MovForms
  intro s w rm r i8 i32 hm hw movs stores
  subst hw
  have byte : IsWidth 8 := .inl rfl
  have sized : IsWidth s.x86.opSize := s.x86.isWidth_opSize
  refine ⟨fun hd => ?rm8R8, fun hd => ?rmR, fun hr => ?r8Rm8, fun hr => ?rRm, ?r8Imm8, ?rImm, fun hd => ?rm8Imm8,
    fun hd => ?rmImm, fun ha => ?alMoffs, fun ha => ?axMoffs, fun ha => ?moffsAl, fun ha => ?moffsAx⟩
  case rm8R8 => exact X86Answers.moves hm byte hd rfl
  case rmR =>
    exact X86Answers.moves hm sized hd (X86Answers.sized (body := fun x w => movToRM w rm (x.readReg w r) x) rfl)
  case r8Rm8 => exact X86Answers.movesToReg hm byte hr rfl
  case rRm => exact X86Answers.movesToReg hm sized hr (X86Answers.sized (body := fun x w => movToReg w r rm x) rfl)
  case r8Imm8 => exact X86Answers.moves hm byte (dst := .reg r) trivial rfl
  case rImm =>
    exact X86Answers.moves hm sized (dst := .reg r) trivial
      (X86Answers.sized (body := fun x w => .ok (x.writeReg r (immOp w i32))) rfl)
  case rm8Imm8 => exact X86Answers.moves hm byte hd rfl
  case rmImm =>
    exact X86Answers.moves hm sized hd (X86Answers.sized (body := fun x w => movToRM w rm (immOp w i32) x) rfl)
  case alMoffs => exact X86Answers.movesFromMoffs hm byte ha rfl
  case axMoffs =>
    exact X86Answers.movesFromMoffs hm sized ha (X86Answers.sized (body := fun x w => movFromMoffs w i32 x) rfl)
  case moffsAl => exact X86Answers.storesToMoffs hm byte ha rfl
  case moffsAx =>
    exact X86Answers.storesToMoffs hm sized ha (X86Answers.sized (body := fun x w => movToMoffs w i32 x) rfl)

/-! ### From a segment register -/

theorem sregOf_eq_none {sr : BitVec 3} (h : 6 ≤ sr.toNat) : sregOf sr = none := by
  revert sr
  decide

/-- The numbers of the segment registers (spec/30_encoding.md R153). -/
theorem sregOf_of_mem {sr : BitVec 3} {g : X86Sreg}
    (h : (sr, g) ∈ [(0#3, X86Sreg.es), (1#3, .cs), (2#3, .ss), (3#3, .ds), (4#3, .fs), (5#3, .gs)]) :
    sregOf sr = some g := by
  simp only [List.mem_cons, Prod.mk.injEq, List.not_mem_nil, or_false] at h
  rcases h with ⟨rfl, rfl⟩ | ⟨rfl, rfl⟩ | ⟨rfl, rfl⟩ | ⟨rfl, rfl⟩ | ⟨rfl, rfl⟩ | ⟨rfl, rfl⟩ <;> rfl

/-- A write of a whole register, read in its low half. -/
theorem X86State.readReg16_writeReg32 (x : X86State) (n : BitVec 3) (v : Word) :
    (x.writeReg n v).readReg 16 n = v.extractLsb' 0 16 := by
  have whole : (x.writeReg n v).gpr32 n = v := by
    rw [← BitVec.extractLsb'_eq_self (x := (x.writeReg n v).gpr32 n)]
    exact x.readReg_writeReg n v (by decide)
  exact congrArg (fun u : Word => u.extractLsb' 0 16) whole

/-- What leaves a register outside its low half leaves the other registers. -/
theorem X86State.KeepsRegs.widen {x y : X86State} {n : BitVec 3} (h : X86State.KeepsRegs [(16, n)] x y) :
    X86State.KeepsRegs [(32, n)] x y := by
  intro k j hj
  refine h k j fun e he => ?_
  obtain rfl := List.mem_singleton.1 he
  rintro ⟨hk, hlo, hhi⟩
  have low : j < 0 + 16 := hhi
  exact hj (32, n) (List.mem_singleton.2 rfl) ⟨hk, hlo, show j < 0 + 32 by omega⟩

section
variable {sr : BitVec 3} {g : X86Sreg} (hg : sregOf sr = some g) {s : State}
include hg

theorem movRmSreg_reg_answers (n : BitVec 3) :
    X86Answers (.x86MovRmSreg (.reg n) sr) s
      (movSelector (.reg n) (s.x86.segs.get g).sel (s.x86.entered (.x86MovRmSreg (.reg n) sr))) := by
  show execX86MovRmSreg (.reg n) sr s = _
  rw [execX86MovRmSreg, x86Do, hg]
  rfl

/-- The selector into a register: with a drawn upper half, or into the low half alone (spec/40_ia32.md R268). -/
theorem movRmSreg_reg_completes (n : BitVec 3) : X86Completes (.x86MovRmSreg (.reg n) sr) s fun y =>
    y.readReg 16 n = (s.x86.segs.get g).sel ∧ X86State.Keeps [(32, n)] s.x86 y ∧
    (s.x86.segs.cs.desc.big = false → s.x86.pfx.op = false → X86State.Keeps [(16, n)] s.x86 y) ∧
    Memory.Same s.x86.mem y.mem ∧ y.flags = s.x86.flags ∧ X86State.Passes (.x86MovRmSreg (.reg n) sr) s.x86 y := by
  have answers := movRmSreg_reg_answers hg (s := s) n
  by_cases wide : s.x86.segs.cs.desc.big ∨ s.x86.pfx.op
  · refine answers.completes (if_pos wide) ⟨?_, ?_, fun hbig hop => ?_, fun _ => rfl, rfl, rfl⟩
    · refine (X86State.readReg16_writeReg32 ((s.x86.entered _).draw 16).2 n _).trans ?_
      rw [bitsOf_pair (m := 16) (n := 16)]
      exact BitVec.extractLsb'_append_eq_right
    · exact X86State.keeps_of (X86State.keepsRegs_writeReg ((s.x86.entered _).draw 16).2 n _) rfl rfl rfl rfl
    · simp [hbig, hop] at wide
  · have low : X86State.KeepsRegs [(16, n)] s.x86 ((s.x86.entered (.x86MovRmSreg (.reg n) sr)).writeReg n
        (s.x86.segs.get g).sel) := X86State.keepsRegs_writeReg (s.x86.entered _) n _
    refine answers.completes (if_neg wide) ⟨?_, X86State.keeps_of low.widen rfl rfl rfl rfl,
      fun _ _ => X86State.keeps_of low rfl rfl rfl rfl, fun _ => rfl, rfl, rfl⟩
    exact X86State.readReg_writeReg (s.x86.entered _) n _ (by decide)

end

/-- Settles O23: the number names a segment register or none, and the operand is memory or a register. -/
theorem movFromSelector : Obligations.MovFromSelector := by
  unfold Obligations.MovFromSelector
  intro s rm m n sr g hm
  refine ⟨fun h6 => ?_, fun hg => ⟨fun hd => ?_, movRmSreg_reg_completes (sregOf_of_mem hg) n⟩⟩
  · show execX86MovRmSreg rm sr s = _
    rw [execX86MovRmSreg, x86Do, sregOf_eq_none h6]
    rfl
  · exact X86Answers.moves hm (by decide) hd (movRmSreg_answers (sregOf_of_mem hg))

end Sys2Proof.Machine
end

section
/-! PROOFS, P1: XCHG (spec/40_ia32.md R282) and SHRD (R278 to R280). -/

namespace Sys2Proof.Machine

/-! ### XCHG -/

/-- A register after it and then another, or it again, are written: the last write stands. -/
theorem X86State.readReg_writeReg_writeReg (x : X86State) (n r : BitVec 3) (t : BitVec w) (hw : IsWidth w) :
    ((x.writeReg n (x.readReg w r)).writeReg r t).readReg w n = if n = r then t else x.readReg w r := by
  split
  · subst r
    exact X86State.readReg_writeReg _ n t hw
  · rw [X86State.readReg_writeReg_ne _ r n t hw ‹_›, X86State.readReg_writeReg _ n _ hw]

section
variable {i : Instr} {s : State} {w : Nat} (hw : IsWidth w)
include hw

/-- Two registers swapped, or one with itself. -/
theorem X86Answers.swapsRegs {n r : BitVec 3} (h : X86Answers i s (xchgBody w (.reg n) r (s.x86.entered i))) :
    X86Completes i s fun y => y.readReg w n = s.x86.readReg w r ∧ y.readReg w r = s.x86.readReg w n ∧
      X86State.Keeps [(w, n), (w, r)] s.x86 y ∧ Memory.Same s.x86.mem y.mem ∧ y.flags = s.x86.flags ∧
      X86State.Passes i s.x86 y := by
  refine h.completes rfl ⟨?first, ?second, X86State.keeps_of ?regs rfl rfl rfl rfl, fun _ => rfl, rfl, rfl⟩
  case first =>
    refine (X86State.readReg_writeReg_writeReg (s.x86.entered i) n r _ hw).trans ?_
    split
    · subst r
      rfl
    · rfl
  case second => exact X86State.readReg_writeReg ((s.x86.entered i).writeReg n _) r _ hw
  case regs =>
    exact X86State.keepsRegs_trans (X86State.keepsRegs_writeReg (s.x86.entered i) n _)
      (X86State.keepsRegs_writeReg ((s.x86.entered i).writeReg n _) r _)

/-- A register and an operand in memory swapped. -/
theorem X86Answers.swapsMem {m : X86Mem} {r : BitVec 3} (hm : Memory.wf top32 s.x86.mem)
    (hu : s.x86.Updates w (.mem m)) (h : X86Answers i s (xchgBody w (.mem m) r (s.x86.entered i))) :
    X86Completes i s fun y => y.readReg w r = s.x86.operand w (.mem m) ∧
      Memory.Stored .little top32 s.x86.mem y.mem (s.x86.memAt m (w / 8) .write) (s.x86.readReg w r) ∧
      X86State.Keeps [(w, r)] s.x86 y ∧ y.flags = s.x86.flags ∧ X86State.Passes i s.x86 y := by
  obtain ⟨hread, hwrite⟩ := hu
  rw [xchgBody, readRM_entered i s w (.mem m) hread] at h
  dsimp only at h
  rw [X86State.writeRM_of_reaches (s.x86.entered i) (.mem m) _ hwrite] at h
  refine h.completes rfl ⟨?_, s.x86.stored_store _ _ hw hm, X86State.keeps_of ?_ rfl rfl rfl rfl, rfl, rfl⟩
  · exact X86State.readReg_writeReg ((s.x86.entered i).store _ _) r _ hw
  · exact X86State.keepsRegs_writeReg ((s.x86.entered i).store _ _) r _

end

/-- Settles O27: every form is a swap of a register with an r/m operand. -/
theorem xchgForms : Obligations.XchgForms := by
  unfold Obligations.XchgForms
  intro s w v m n r i hm hw
  subst hw
  have byte : IsWidth 8 := .inl rfl
  have sized : IsWidth s.x86.opSize := s.x86.isWidth_opSize
  refine ⟨fun hi => ?regs, fun hi hu => ?mem⟩
  case regs =>
    simp only [List.mem_cons, Prod.mk.injEq, List.not_mem_nil, or_false] at hi
    rcases hi with ⟨rfl, rfl, rfl⟩ | ⟨rfl, rfl, -⟩ | ⟨rfl, rfl, -⟩
    · obtain ⟨y, next, second, first, ⟨regs, rest⟩, others⟩ := X86Answers.swapsRegs sized
        (X86Answers.sized (i := .x86XchgAxR r) (s := s) (body := fun x w => xchgBody w (.reg r) eax x) rfl)
      have swapped := X86State.keepsRegs_mono regs fun e he => List.mem_pair.2 (List.mem_pair.1 he).symm
      exact ⟨y, next, first, second, ⟨swapped, rest⟩, others⟩
    · exact X86Answers.swapsRegs byte rfl
    · exact X86Answers.swapsRegs sized (X86Answers.sized (body := fun x w => xchgBody w (.reg n) r x) rfl)
  case mem =>
    simp only [List.mem_cons, Prod.mk.injEq, List.not_mem_nil, or_false] at hi
    rcases hi with ⟨rfl, rfl⟩ | ⟨rfl, rfl⟩
    · exact X86Answers.swapsMem byte hm hu rfl
    · exact X86Answers.swapsMem sized hm hu (X86Answers.sized (body := fun x w => xchgBody w (.mem m) r x) rfl)

/-! ### SHRD -/

/-- The bits that SHRD shifts down, and the ones that it fills in from the source (spec/40_ia32.md R278). -/
theorem getLsbD_shrdValue (a b : BitVec w) {count k : Nat} (hc : count < w) (hk : k < w) :
    (shrdValue a b count).getLsbD k =
      if k + count < w then a.getLsbD (k + count) else b.getLsbD (k + count - w) := by
  simp only [shrdValue, BitVec.getLsbD_or, BitVec.getLsbD_ushiftRight, BitVec.getLsbD_shiftLeft, hk, decide_true,
    Bool.true_and]
  by_cases h : k + count < w
  · have below : k < w - count := by omega
    rw [if_pos h]
    simp [below, Nat.add_comm k]
  · have above : ¬ k < w - count := by omega
    have past : a.getLsbD (count + k) = false := BitVec.getLsbD_of_ge a _ (by omega)
    rw [if_neg h]
    simp [above, past, show k - (w - count) = k + count - w by omega]

theorem shrdFlags_spec (a b : BitVec w) (count : Nat) (freeOf freeAf : Bool) :
    (shrdFlags a b count freeOf freeAf).cf = a.getLsbD (count - 1) ∧
    ResultFlags (shrdValue a b count) (shrdFlags a b count freeOf freeAf) ∧
    (count = 1 → (shrdFlags a b count freeOf freeAf).ovf = ((shrdValue a b count).msb ^^ a.msb)) :=
  ⟨rfl, resultFlags_of rfl rfl rfl, fun h => if_pos h⟩

theorem X86State.checkWriteRM_of_reaches {w : Nat} {x : X86State} {rm : X86RM} (h : x.Reaches w rm .write) :
    x.checkWriteRM w rm = .ok x := by
  cases rm with
  | reg n => rfl
  | mem m => rw [X86State.checkWriteRM, X86State.xseg_of_allows _ _ _ _ _ h]

section
variable {i : Instr} {s : State} {w : Nat} (hm : Memory.wf top32 s.x86.mem) (hw : IsWidth w) {rm : X86RM}
  (hu : s.x86.Updates w rm) {src : BitVec w} {count : Nat}
  (h : X86Answers i s (shrdBody w rm src count (s.x86.entered i)))
include hu h

/-- A count of 0 leaves the operand and the flags. -/
theorem X86Answers.shrdNothing (hc : count = 0) : X86Completes i s fun y => X86State.Keeps [] s.x86 y ∧
    Memory.Same s.x86.mem y.mem ∧ y.flags = s.x86.flags ∧ X86State.Passes i s.x86 y := by
  obtain ⟨hread, hwrite⟩ := hu
  have reaches : (s.x86.entered i).Reaches w rm .write := by cases rm <;> exact hwrite
  rw [shrdBody, readRM_entered i s w rm hread] at h
  dsimp only at h
  rw [if_pos hc, X86State.checkWriteRM_of_reaches reaches] at h
  exact h.completes rfl ⟨X86State.keeps_of (fun _ _ _ => rfl) rfl rfl rfl rfl, fun _ => rfl, rfl, rfl⟩

include hm hw

/-- A count from the size up writes drawn values. -/
theorem X86Answers.shrdFree (hc : w ≤ count) : ∃ v : BitVec w, X86Writes i s w rm v fun _ => True := by
  obtain ⟨hread, hwrite⟩ := hu
  have pos := hw.pos
  rw [shrdBody, readRM_entered i s w rm hread] at h
  dsimp only at h
  rw [if_neg (by omega), if_pos hc] at h
  exact ⟨_, x86Writes_of i s w hw rm _ _ _ (s.x86.draws + 2) hm hwrite trivial h⟩

/-- A count below the size shifts. -/
theorem X86Answers.shrdShifts (h0 : 0 < count) (hc : count < w) :
    X86Writes i s w rm (shrdValue (s.x86.operand w rm) src count) fun f =>
      f.cf = (s.x86.operand w rm).getLsbD (count - 1) ∧ ResultFlags (shrdValue (s.x86.operand w rm) src count) f ∧
      (count = 1 → f.ovf = ((shrdValue (s.x86.operand w rm) src count).msb ^^ (s.x86.operand w rm).msb)) := by
  obtain ⟨hread, hwrite⟩ := hu
  rw [shrdBody, readRM_entered i s w rm hread] at h
  dsimp only at h
  rw [if_neg (by omega), if_neg (by omega)] at h
  exact x86Writes_of i s w hw rm _ _ _ (s.x86.draws + 1) hm hwrite (shrdFlags_spec _ src count _ _) h

end

/-- The two forms of SHRD, by where the count stands. -/
theorem shrd_answers {s : State} {rm : X86RM} {r : BitVec 3} {i8 : BitVec 8} {i : Instr} {count : Nat}
    (hi : (i, count) ∈ [(Instr.x86ShrdImm rm r i8, i8.toNat % 32),
      (.x86ShrdCl rm r, (s.x86.readReg 8 1).toNat % 32)]) :
    X86Answers i s (shrdBody s.x86.opSize rm (s.x86.readReg s.x86.opSize r) count (s.x86.entered i)) := by
  simp only [List.mem_cons, Prod.mk.injEq, List.not_mem_nil, or_false] at hi
  rcases hi with ⟨rfl, rfl⟩ | ⟨rfl, rfl⟩
  · exact X86Answers.sized (body := fun x w => shrdBody w rm (x.readReg w r) (i8.toNat % 32) x) rfl
  · exact X86Answers.sized (body := fun x w =>
      shrdBody w rm (x.readReg w r) ((x.readReg 8 ecx).toNat % 32) x) rfl

/-- Settles O26: the three ranges of the count; a value with the bits that the statement gives is the shifted one. -/
theorem shrdForms : Obligations.ShrdForms := by
  unfold Obligations.ShrdForms
  intro s w rm r i8 i count hm hw hu hi a b
  subst hw
  have answers := shrd_answers hi
  refine ⟨answers.shrdNothing hu, answers.shrdFree hm s.x86.isWidth_opSize hu, fun h0 hc v hv => ?_⟩
  have value : v = shrdValue a b count :=
    BitVec.eq_of_getLsbD_eq fun k hk => (hv k hk).trans (getLsbD_shrdValue a b hc hk).symm
  rw [value]
  exact answers.shrdShifts hm s.x86.isWidth_opSize hu h0 hc

end Sys2Proof.Machine
end

section
/-! PROOFS, P1: LOOP, LOOPE and LOOPNE (spec/40_ia32.md R274 to R276) and near RET (R296, R297). -/

namespace Sys2Proof.Machine

/-! ### LOOP -/

theorem X86State.isWidth_addrSize (x : X86State) : IsWidth x.addrSize := by
  unfold X86State.addrSize
  split <;> decide

/-- The count register is the view of width `AddressSize` (spec/40_ia32.md R274). -/
theorem X86State.countDown_eq (x : X86State) : x.countDown = x.writeReg ecx (x.readReg x.addrSize ecx - 1) := by
  by_cases h : x.addr32 = true
  · have size : x.addrSize = 32 := if_pos h
    rw [X86State.countDown, if_pos h, size]
  · have size : x.addrSize = 16 := if_neg h
    rw [X86State.countDown, if_neg h, size]

theorem X86State.counting_iff (x : X86State) : x.counting = true ↔ x.readReg x.addrSize ecx ≠ 0 := by
  by_cases h : x.addr32 = true
  · have size : x.addrSize = 32 := if_pos h
    rw [X86State.counting, if_pos h, size, bne_iff_ne]
  · have size : x.addrSize = 16 := if_neg h
    rw [X86State.counting, if_neg h, size, bne_iff_ne]

theorem X86State.readReg_countDown (x : X86State) :
    x.countDown.readReg x.addrSize ecx = x.readReg x.addrSize ecx - 1 := by
  rw [X86State.countDown_eq]
  exact x.readReg_writeReg ecx _ x.isWidth_addrSize

theorem X86State.keepsRegs_countDown (x : X86State) : X86State.KeepsRegs [(x.addrSize, ecx)] x x.countDown := by
  rw [X86State.countDown_eq]
  exact x.keepsRegs_writeReg ecx _

/-- The branch is taken while the count, when it has moved, is not zero. -/
theorem X86State.counting_countDown (x : X86State) :
    x.countDown.counting = true ↔ x.readReg x.addrSize ecx - 1 ≠ 0 := by
  have size : x.countDown.addrSize = x.addrSize := by
    rw [X86State.addrSize, X86State.addr32, X86State.countDown_segs, X86State.countDown_pfx]
    rfl
  rw [X86State.counting_iff, size, X86State.readReg_countDown]

/-- What a LOOP leaves when it goes on at `eip`. -/
def X86State.Looped (x : X86State) (eip : Word) (y : X86State) : Prop :=
  y.readReg x.addrSize ecx = x.readReg x.addrSize ecx - 1 ∧ y.eip = eip ∧ X86State.Keeps [(x.addrSize, ecx)] x y ∧
  Memory.Same x.mem y.mem ∧ y.flags = x.flags

theorem X86State.looped_countDown (x : X86State) (i : Instr) {eip e : Word} (he : e = eip) :
    x.Looped eip { (x.entered i).countDown with eip := e, pfx := .none } := by
  refine ⟨(x.entered i).readReg_countDown, he, X86State.keeps_of (x.entered i).keepsRegs_countDown
    (X86State.countDown_segs _) (X86State.countDown_inhibitNext _) (X86State.countDown_shutdown _)
    (X86State.system_countDown _), fun _ => ?_, X86State.countDown_flags _⟩
  show Memory.get (x.entered i).countDown.mem _ = _
  rw [X86State.countDown_mem]
  rfl

section
variable {i : Instr} {s : State} {rel : BitVec 8} {cond : Bool}
  (h : X86Answers i s (loopBody rel cond (s.x86.entered i)))
include h

theorem X86Answers.loopEnds (ht : ¬ (s.x86.readReg s.x86.addrSize ecx - 1 ≠ 0 ∧ cond = true)) :
    X86Completes i s (s.x86.Looped (s.x86.eip + BitVec.ofNat 32 (s.x86.lengthOf i))) := by
  refine h.completes (if_neg fun taken => ht ?_) (s.x86.looped_countDown i (X86State.countDown_eip _))
  obtain ⟨counting, holds⟩ := (Bool.and_eq_true ..).mp taken
  exact ⟨(s.x86.entered i).counting_countDown.1 counting, holds⟩

/-- The branch, checked against the code-segment limit. -/
theorem X86Answers.loopJumps {target : Word} (ht : s.x86.readReg s.x86.addrSize ecx - 1 ≠ 0 ∧ cond = true)
    (htarget : target =
      if s.x86.op32 then s.x86.eip + BitVec.ofNat 32 (s.x86.lengthOf i) + rel.signExtend 32
      else (s.x86.eip + BitVec.ofNat 32 (s.x86.lengthOf i) + rel.signExtend 32) &&& 0xFFFF#32) :
    X86Answers i s (if target.toNat ≤ s.x86.segs.cs.desc.limit.toNat
      then .ok { (s.x86.entered i).countDown with eip := target } else .error (.raises (.x86 (.gp 0)))) := by
  obtain ⟨hcount, hcond⟩ := ht
  have taken : ((s.x86.entered i).countDown.counting && cond) = true :=
    (Bool.and_eq_true ..).mpr ⟨(s.x86.entered i).counting_countDown.2 hcount, hcond⟩
  have size : (s.x86.entered i).countDown.op32 = s.x86.op32 := by
    rw [X86State.op32, X86State.countDown_segs, X86State.countDown_pfx]
    rfl
  have limit : (s.x86.entered i).countDown.segs.cs.desc.limit = s.x86.segs.cs.desc.limit := by
    rw [X86State.countDown_segs]
    rfl
  rw [loopBody, if_pos taken, size, X86State.jumpNear_eq, X86State.countDown_eip, limit, X86State.entered_eip,
    ← htarget] at h
  exact h

end

/-- Settles O25: the branch not taken, taken, and refused by the limit. -/
theorem loopForms : Obligations.LoopForms := by
  unfold Obligations.LoopForms
  intro s aw rel i cond haw hi count next target taken done
  subst haw
  have answers : X86Answers i s (loopBody rel cond (s.x86.entered i)) := by
    simp only [List.mem_cons, Prod.mk.injEq, List.not_mem_nil, or_false] at hi
    rcases hi with ⟨rfl, rfl⟩ | ⟨rfl, rfl⟩ | ⟨rfl, rfl⟩ <;> rfl
  refine ⟨answers.loopEnds, fun ht hin => ?_, fun ht hout => ?_⟩
  · exact (answers.loopJumps ht rfl).completes (if_pos hin) (s.x86.looped_countDown i rfl)
  · exact (answers.loopJumps (target := target) ht rfl).raises (if_neg (Nat.not_le.2 hout))

/-! ### Near RET -/

/-- A near RET that has popped `n` bytes and jumped to `target`, before it releases more of the stack. -/
def X86State.returned (x : X86State) (n : Nat) (target : Word) : X86State := { x.setSp (x.popTo n) with eip := target }

section
variable (x : X86State) (n : Nat) (target : Word)

@[simp] theorem X86State.returned_segs : (x.returned n target).segs = x.segs := x.setSp_segs _
@[simp] theorem X86State.returned_flags : (x.returned n target).flags = x.flags := x.setSp_flags _
@[simp] theorem X86State.returned_mem : (x.returned n target).mem = x.mem := x.setSp_mem _
@[simp] theorem X86State.returned_inhibitNext : (x.returned n target).inhibitNext = x.inhibitNext :=
  x.setSp_inhibitNext _
@[simp] theorem X86State.returned_shutdown : (x.returned n target).shutdown = x.shutdown := x.setSp_shutdown _
@[simp] theorem X86State.returned_system : (x.returned n target).system = x.system := x.system_setSp _

/-- The bytes that the pop and the release move the stack pointer by add up. -/
theorem X86State.stackUp_returned (extra : Word) :
    (x.returned n target).stackUp extra = x.stackUp (BitVec.ofNat 32 n + extra) := x.stackUp_setSp _ _

/-- The pop and the release move no register bit but the stack pointer's. -/
theorem X86State.keepsRegs_returned (v : Word) :
    X86State.KeepsRegs [x.stackPart] x ((x.returned n target).setSp v) := by
  have released := (x.returned n target).keepsRegs_setSp v
  rw [X86State.stackPart, X86State.stack32, X86State.returned_segs] at released
  exact X86State.keepsRegs_mono (X86State.keepsRegs_trans (x.keepsRegs_setSp (x.popTo n)) released)
    fun e he => (List.mem_pair.1 he).elim List.mem_singleton.2 List.mem_singleton.2

end

/-- Near RET with its stack inside the limit: the pop, the jump, and the bytes released (spec/40_ia32.md R296, R297). -/
theorem retBody_of_allows {x : X86State} {w : Nat} (extra : Word) (hw : w = x.opSize) (hp : x.CanPop (w / 8))
    (ho : ¬ x.Outside .ss x.topOfStack (w / 8)) {target : Word}
    (ht : target = (x.mem.read .little top32 w (x.stackAt x.topOfStack (w / 8) .stackRead)).setWidth 32) :
    retBody extra x = if target.toNat ≤ x.segs.cs.desc.limit.toNat
      then .ok ((x.returned (w / 8) target).setSp ((x.returned (w / 8) target).stackUp extra))
      else .error (.raises (.x86 (.gp 0))) := by
  subst hw
  have limit : (x.setSp (x.popTo (x.opSize / 8))).segs.cs.desc.limit = x.segs.cs.desc.limit := by
    rw [X86State.setSp_segs]
  rw [retBody, X86State.atOpSize_eq, X86State.sp_eq, if_neg (Bool.eq_false_iff.1 ((x.straddles_eq_false _ _).2 hp.1)),
    if_neg (mt (x.pastLimit_eq_true _ _ _).1 ho), x.pop_of_allows _ hp]
  dsimp only
  rw [← ht, X86State.jumpNear_eq, limit]
  by_cases hin : target.toNat ≤ x.segs.cs.desc.limit.toNat
  · rw [if_pos hin, if_pos hin]
    exact congrArg (fun t => Except.ok ((x.returned (x.opSize / 8) target).setSp t)) (X86State.spPlus_eq _ _)
  · rw [if_neg hin, if_neg hin]

/-- Settles O29: the target inside the code-segment limit and outside. -/
theorem retForms : Obligations.RetForms := by
  unfold Obligations.RetForms
  intro s w imm i extra hw hp ho hi top target
  have answers : X86Answers i s (retBody extra (s.x86.entered i)) := by
    simp only [List.mem_cons, Prod.mk.injEq, List.not_mem_nil, or_false] at hi
    rcases hi with ⟨rfl, rfl⟩ | ⟨rfl, rfl⟩ <;> rfl
  have body := retBody_of_allows (x := s.x86.entered i) extra hw hp ho (target := target) rfl
  refine ⟨fun hin => ?inside, fun hout => answers.raises (body.trans (if_neg (Nat.not_le.2 hout)))⟩
  refine answers.completes (body.trans (if_pos hin)) ⟨?eip, ?top, X86State.keeps_of ?regs ?segs ?inhibit ?shutdown
    ?system, ?mem, ?flags⟩
  case eip => exact X86State.setSp_eip ..
  case top => exact (X86State.topOfStack_setSp_stackUp _ _).trans ((s.x86.entered i).stackUp_returned _ _ _)
  case regs => exact (s.x86.entered i).keepsRegs_returned _ _ _
  case segs => simp
  case inhibit => simp
  case shutdown => simp
  case system => simp
  case mem =>
    intro a
    show Memory.get (X86State.setSp _ _).mem a = _
    simp
  case flags => exact (X86State.setSp_flags ..).trans ((s.x86.entered i).returned_flags _ _)

end Sys2Proof.Machine
end

section
/-! PROOFS, P1: POP into a register and into memory (spec/40_ia32.md R254, R286, R289), and the loads of segment
registers (R268, R287, R288). -/

namespace Sys2Proof.Machine

/-! ### The stack pointer moved up -/

/-- The state after the pop of `n` bytes. -/
abbrev X86State.popped (x : X86State) (n : Nat) : X86State := x.setSp (x.popTo n)

/-- The value at the top of stack. -/
abbrev X86State.topValue (w : Nat) (x : X86State) : BitVec w :=
  x.mem.read .little top32 w (x.stackAt x.topOfStack (w / 8) .stackRead)

/-- Inside the instruction `i`, the state after the pop of `n` bytes: the prologue moves EIP and spends the latch. -/
def X86State.poppedIn (x : X86State) (i : Instr) (n : Nat) : X86State :=
  { x.popped n with eip := x.eip + BitVec.ofNat 32 (x.lengthOf i), inhibitNext := false }

theorem X86State.setSp_entered (x : X86State) (i : Instr) (v : Word) :
    (x.entered i).setSp v =
      { x.setSp v with eip := x.eip + BitVec.ofNat 32 (x.lengthOf i), inhibitNext := false } := by
  have same : (x.entered i).stack32 = x.stack32 := rfl
  rw [X86State.setSp, X86State.setSp, same]
  cases x.stack32 <;> rfl

theorem pop_entered {i : Instr} {s : State} {w : Nat} (hp : s.x86.CanPop (w / 8)) :
    (s.x86.entered i).pop w = .ok (s.x86.topValue w, s.x86.poppedIn i (w / 8)) :=
  ((s.x86.entered i).pop_of_allows w hp).trans
    (congrArg (fun y => Except.ok (_, y)) (s.x86.setSp_entered i (s.x86.popTo (w / 8))))

/-- The prologue places no operand. -/
theorem X86State.ea_poppedIn (x : X86State) (i : Instr) (n : Nat) (m : X86Mem) :
    (x.poppedIn i n).ea m = (x.popped n).ea m := by
  cases m <;> rfl

theorem X86State.wrapLoc_poppedIn (x : X86State) (i : Instr) (n : Nat) (m : X86Mem) :
    ((x.poppedIn i n).wrapLoc m).1 = ((x.popped n).wrapLoc m).1 := by
  have params : (x.poppedIn i n).params = (x.popped n).params := rfl
  rw [X86State.wrapLoc, X86State.wrapLoc, params, X86State.ea_poppedIn]
  cases (x.popped n).params.popWrap <;> rfl

/-! ### POP into a register and into memory -/

section
variable {i : Instr} {s : State} {w : Nat} {v : BitVec w} (hw : IsWidth w)
include hw

/-- An instruction that pops and then writes a register: the value replaces the stack pointer in POP ESP. -/
theorem X86Answers.popsToReg {r : BitVec 3} (h : X86Answers i s (.ok ((s.x86.poppedIn i (w / 8)).writeReg r v))) :
    X86Completes i s fun y => X86State.Wrote w (.reg r) v (s.x86.popped (w / 8)) y ∧ y.flags = s.x86.flags ∧
      X86State.Passes i s.x86 y := by
  refine h.completes rfl ⟨⟨?value, X86State.keeps_of ?regs rfl rfl rfl rfl, fun _ => rfl⟩, X86State.setSp_flags .., rfl⟩
  case value => exact X86State.readReg_writeReg (s.x86.poppedIn i (w / 8)) r v hw
  case regs => exact X86State.keepsRegs_writeReg (s.x86.poppedIn i (w / 8)) r v

/-- An instruction that pops and then stores where X86_SEG puts `off` of segment `g`, values drawn before. -/
theorem X86Answers.popsToMem {g : X86Sreg} {off : Word} {d : Nat} (hm : Memory.wf top32 s.x86.mem)
    (ha : (s.x86.popped (w / 8)).Allows g off (w / 8) .write)
    (h : X86Answers i s (X86State.writeSeg { s.x86.poppedIn i (w / 8) with draws := d } g off .write v)) :
    X86Completes i s fun y =>
      Memory.Stored .little top32 (s.x86.popped (w / 8)).mem y.mem
        ((s.x86.popped (w / 8)).locate g off (w / 8) .write).toNat v ∧
      X86State.Keeps [] (s.x86.popped (w / 8)) y ∧ y.flags = s.x86.flags ∧ X86State.Passes i s.x86 y := by
  have canonical : Memory.wf top32 (s.x86.popped (w / 8)).mem := by rwa [X86State.setSp_mem]
  refine h.completes (X86State.writeSeg_of_allows { s.x86.poppedIn i (w / 8) with draws := d } g off .write v ha)
    ⟨?_, X86State.keeps_of (fun _ _ _ => rfl) rfl rfl rfl rfl, X86State.setSp_flags .., rfl⟩
  exact (s.x86.popped (w / 8)).stored_store _ v hw canonical

end

section
variable {s : State} {m : X86Mem} {w : Nat} (hw : w = s.x86.opSize) (hp : s.x86.CanPop (w / 8))
include hw hp

/-- POP into memory, the stack pointer moved (spec/40_ia32.md R286, R289). -/
theorem popMem_answers : X86Answers (.x86PopMem m) s
    (let y := s.x86.poppedIn (.x86PopMem m) (w / 8)
     if s.x86.popWraps m (w / 8)
     then (y.wrapLoc m).2.writeSeg (y.wrapLoc m).1.1 (y.wrapLoc m).1.2 .write (s.x86.topValue w)
     else y.writeSeg (y.segOf m) (y.ea m) .write (s.x86.topValue w)) := by
  subst hw
  have answers := X86Answers.sized (i := .x86PopMem m) (s := s) (body := fun x w => popToMem w m x) rfl
  have wraps : (s.x86.entered (.x86PopMem m)).popWraps m (s.x86.opSize / 8) = s.x86.popWraps m (s.x86.opSize / 8) := by
    cases m <;> rfl
  rw [popToMem, pop_entered hp] at answers
  dsimp only at answers
  rwa [wraps] at answers

/-- Without a wrap the destination is the operand's own, addressed after the increment. -/
theorem popMem_answers_of_not_wraps (hwr : s.x86.popWraps m (w / 8) = false) :
    X86Answers (.x86PopMem m) s ((s.x86.poppedIn (.x86PopMem m) (w / 8)).writeSeg
      ((s.x86.popped (w / 8)).segOf m) ((s.x86.popped (w / 8)).ea m) .write (s.x86.topValue w)) := by
  have answers := popMem_answers (m := m) hw hp
  dsimp only at answers
  rw [hwr, X86State.ea_poppedIn] at answers
  exact answers

/-- At a wrap it is the location of X86_POP_WRAP_LOC (spec/40_ia32.md R289). -/
theorem popMem_answers_of_wraps (hwr : s.x86.popWraps m (w / 8) = true) :
    ∃ d, X86Answers (.x86PopMem m) s
      (X86State.writeSeg { s.x86.poppedIn (.x86PopMem m) (w / 8) with draws := d }
        ((s.x86.popped (w / 8)).wrapLoc m).1.1 ((s.x86.popped (w / 8)).wrapLoc m).1.2 .write (s.x86.topValue w)) := by
  obtain ⟨d, state⟩ := (s.x86.poppedIn (.x86PopMem m) (w / 8)).wrapLoc_state m
  have answers := popMem_answers (m := m) hw hp
  dsimp only at answers
  rw [hwr, X86State.wrapLoc_poppedIn, state] at answers
  exact ⟨d, answers⟩

end

/-- What X86_POP_WRAP_LOC answers where the parameter says (spec/40_ia32.md R289). -/
theorem X86State.wrapLoc_of_computed {x : X86State} {m : X86Mem} (h : x.params.popWrap = .computed) :
    (x.wrapLoc m).1 = (x.segOf m, x.ea m) := by
  rw [X86State.wrapLoc, h]

theorem X86State.wrapLoc_of_lies {x : X86State} {m : X86Mem} {g : X86Sreg} {off : Word}
    (h : x.params.popWrap = .lies g off) : (x.wrapLoc m).1 = (g, off) := by
  rw [X86State.wrapLoc, h]

end Sys2Proof.Machine

namespace Sys2Proof

open Machine

/-- Settles O28: the destination is a register, the operand's own location, or that of X86_POP_WRAP_LOC. -/
theorem popForms : Obligations.PopForms := by
  unfold Obligations.PopForms
  intro s w m r hm hw hp v up
  subst hw
  have sized : IsWidth s.x86.opSize := s.x86.isWidth_opSize
  have params : up.params = s.x86.params := X86State.setSp_params ..
  refine ⟨?reg, fun hwr ha => ?mem, fun hwr => ⟨fun h => X86State.wrapLoc_of_computed (params ▸ h),
    fun g off h => X86State.wrapLoc_of_lies (params ▸ h), fun ha => ?wrapped, fun e he => ?faults⟩⟩
  case reg =>
    have answers := X86Answers.sized (i := .x86PopReg r) (s := s) (body := fun x w => match x.pop w with
      | .ok (v, y) => .ok (y.writeReg r v)
      | .error e => .error e) rfl
    rw [pop_entered hp] at answers
    exact answers.popsToReg sized
  case mem =>
    obtain ⟨y, next, stored, keeps, rest⟩ := X86Answers.popsToMem (d := up.draws) sized hm ha
      (popMem_answers_of_not_wraps rfl hp hwr)
    exact ⟨y, next, ⟨stored, keeps⟩, rest⟩
  case wrapped =>
    obtain ⟨d, answers⟩ := popMem_answers_of_wraps rfl hp hwr
    obtain ⟨y, next, stored, rest⟩ := answers.popsToMem sized hm ha
    rw [X86State.setSp_mem] at stored
    exact ⟨y, next, stored, rest⟩
  case faults =>
    obtain ⟨d, answers⟩ := popMem_answers_of_wraps rfl hp hwr
    exact answers.raises (X86State.writeSeg_of_faults
      { s.x86.poppedIn (.x86PopMem m) (s.x86.opSize / 8) with draws := d } _ _ .write _ e he)

end Sys2Proof
end

section
/-! PROOFS, P1: the loads of segment registers by MOV and POP (spec/40_ia32.md R268, R287, R288; spec/10_state.md R23,
R29). -/

namespace Sys2Proof.Machine

/-! ### LoadSeg -/

/-- In protected mode the selector `sel` is a null one (spec/10_state.md R23). -/
abbrev X86State.LoadsNull (x : X86State) (sel : Half) : Prop := x.pe = true ∧ x.vm = false ∧ sel.toNat < 4

theorem isNullSelector_iff (sel : Half) : isNullSelector sel = true ↔ sel.toNat < 4 := by
  rw [isNullSelector, beq_iff_eq, ← BitVec.toNat_inj, BitVec.extractLsb'_toNat, Nat.shiftRight_eq_div_pow]
  have := sel.isLt
  simp only [BitVec.toNat_zero]
  omega

theorem X86State.loadsNull_iff (x : X86State) (sel : Half) :
    (x.mode = .prot ∧ isNullSelector sel = true) ↔ x.LoadsNull sel := by
  rw [X86State.mode_eq_prot, isNullSelector_iff, X86State.Protected, and_assoc]

theorem faultsNull_of_ne {g : X86Sreg} (hcs : g ≠ .cs) (hss : g ≠ .ss) : faultsNull g = true := by
  cases g with
  | cs => exact absurd rfl hcs
  | ss => exact absurd rfl hss
  | es | ds | fs | gs => rfl

section
variable {x : X86State} {g : X86Sreg} {sel : Half}

theorem X86State.loadSeg_of_null (h : x.LoadsNull sel) :
    x.loadSeg g sel = if faultsNull g
      then .ok { x with segs := x.segs.set g { (x.segs.get g) with sel := sel, null := true } }
      else .error (.raises (.x86 (.gp 0))) := by
  rw [X86State.loadSeg, if_pos ((x.loadsNull_iff sel).2 h)]

/-- What X86_LOADSEG lists is followed (spec/40_ia32.md R287). -/
theorem X86State.segLoad_of_listed {a : X86SegLoad} (h : x.Listed g sel a) : x.segLoad g sel = (a, x) := by
  obtain ⟨entry, found, result⟩ := Option.map_eq_some_iff.1 h
  rw [X86State.segLoad, found, ← result]

theorem X86State.loadSeg_of_loaded {d : X86Descriptor} (h : ¬ x.LoadsNull sel) (hl : x.Listed g sel (.loaded d)) :
    x.loadSeg g sel = .ok { x with segs := x.segs.set g { sel := sel, null := false, desc := d } } := by
  rw [X86State.loadSeg, if_neg (mt (x.loadsNull_iff sel).1 h), X86State.segLoad_of_listed hl]

theorem X86State.loadSeg_of_raises {e : X86Exc} (h : ¬ x.LoadsNull sel) (hl : x.Listed g sel (.raises e)) :
    x.loadSeg g sel = .error (.raises (.x86 e)) := by
  rw [X86State.loadSeg, if_neg (mt (x.loadsNull_iff sel).1 h), X86State.segLoad_of_listed hl]

end

/-! ### The outcomes of an instruction that loads -/

/-- The instruction `i` ends by loading segment register `g` with `sel` in the state `z`, and then does `k`. -/
structure EndsWithLoad (i : Instr) (s : State) (g : X86Sreg) (sel : Half) (z : X86State) (k : X86State → X86State) :
    Prop where
  loaded : ∀ q, z.loadSeg g sel = .ok q → X86Answers i s (.ok (k q))
  stopped : ∀ e, z.loadSeg g sel = .error e → X86Answers i s (.error e)

/-- What the four kinds of load give, where `after v y` says of `y` that the load was completed with a value in `v`. -/
theorem EndsWithLoad.outcomes {i : Instr} {s : State} {g : X86Sreg} {sel : Half} {z : X86State}
    {k : X86State → X86State} (h : EndsWithLoad i s g sel z k) (system : z.system = s.x86.system) (hcs : g ≠ .cs)
    (after : (X86Seg → Prop) → X86State → Prop)
    (hafter : ∀ v u, v u → after v { k { z with segs := z.segs.set g u } with pfx := .none })
    (d : X86Descriptor) (e : X86Exc) :
    (s.x86.LoadsNull sel → g ≠ .ss → X86Completes i s (after fun v => v.sel = sel ∧ v.null = true)) ∧
    (s.x86.LoadsNull sel → g = .ss → Raises i s (.x86 (.gp 0))) ∧
    (¬ s.x86.LoadsNull sel → s.x86.Listed g sel (.loaded d) →
      X86Completes i s (after fun v => v.sel = sel ∧ v.null = false ∧ v.desc = d)) ∧
    (¬ s.x86.LoadsNull sel → s.x86.Listed g sel (.raises e) → Raises i s (.x86 e)) := by
  obtain ⟨hpe, hvm, -, -, -, -, hparams⟩ := X86System.mk.inj system
  have null : z.LoadsNull sel ↔ s.x86.LoadsNull sel := by rw [X86State.LoadsNull, hpe, hvm]
  have listed (a : X86SegLoad) : z.Listed g sel a ↔ s.x86.Listed g sel a := by
    rw [X86State.Listed, hparams, X86State.Listed]
  refine ⟨fun hn hss => ?_, fun hn hss => ?_, fun hn hl => ?_, fun hn hl => ?_⟩
  · have marked := (X86State.loadSeg_of_null (null.2 hn)).trans (if_pos (faultsNull_of_ne hcs hss))
    exact (h.loaded _ marked).completes rfl (hafter _ _ ⟨rfl, rfl⟩)
  · subst hss
    exact (h.stopped _ (X86State.loadSeg_of_null (null.2 hn))).raises rfl
  · exact (h.loaded _ (X86State.loadSeg_of_loaded (mt null.1 hn) ((listed _).2 hl))).completes rfl
      (hafter _ _ ⟨rfl, rfl, rfl⟩)
  · exact (h.stopped _ (X86State.loadSeg_of_raises (mt null.1 hn) ((listed _).2 hl))).raises rfl

/-! ### MOV and POP -/

theorem movSregRm_of_ud {sr : BitVec 3} (rm : X86RM) (s : State) (h : sr = 1#3 ∨ 6 ≤ sr.toNat) :
    Raises (.x86MovSregRm sr rm) s (.x86 .ud) := by
  show execX86MovSregRm sr rm s = _
  rw [execX86MovSregRm, x86Do]
  rcases h with rfl | h6
  · rfl
  · rw [sregOf_eq_none h6]
    rfl

theorem movSregRm_endsWithLoad {s : State} {sr : BitVec 3} {rm : X86RM} {g : X86Sreg} (hg : sregOf sr = some g)
    (hcs : g ≠ .cs) (hr : s.x86.Reaches 16 rm .read) :
    EndsWithLoad (.x86MovSregRm sr rm) s g (s.x86.operand 16 rm) (s.x86.entered (.x86MovSregRm sr rm)) id := by
  have answers : X86Answers (.x86MovSregRm sr rm) s
      ((s.x86.entered (.x86MovSregRm sr rm)).loadSeg g (s.x86.operand 16 rm)) := by
    show execX86MovSregRm sr rm s = _
    rw [execX86MovSregRm, x86Do, hg]
    dsimp only
    rw [if_neg hcs, readRM_entered _ s 16 rm hr]
  exact ⟨fun q hq => hq ▸ answers, fun e he => he ▸ answers⟩

section
variable {s : State} {i : Instr} {g : X86Sreg} (hp : s.x86.CanPop (s.x86.opSize / 8))
include hp

/-- The selector popped: of a doubleword the low half (spec/92_eei_decisions.md D13). -/
theorem popSelector_entered : popSelector g (s.x86.entered i) =
    (s.x86.poppedIn i (s.x86.opSize / 8)).loadSeg g ((s.x86.topValue s.x86.opSize).setWidth 16) := by
  rw [popSelector, X86State.atOpSize_eq, X86State.entered_opSize, pop_entered hp]

/-- POP of DS, ES, FS and GS ends with the load, POP SS with the inhibit latch set (spec/40_ia32.md R288). -/
theorem popSreg_endsWithLoad (hi : (i, g) ∈ [(Instr.x86PopDs, X86Sreg.ds), (.x86PopEs, .es), (.x86PopFs, .fs),
      (.x86PopGs, .gs), (.x86PopSs, .ss)]) :
    EndsWithLoad i s g ((s.x86.topValue s.x86.opSize).setWidth 16) (s.x86.poppedIn i (s.x86.opSize / 8))
      (if i = .x86PopSs then fun q => q.inhibit s.x86.inhibitNext else id) := by
  have plain {i : Instr} {g : X86Sreg} (hi : exec i s = x86Do i (popSelector g) s) (hss : i ≠ .x86PopSs) :
      EndsWithLoad i s g ((s.x86.topValue s.x86.opSize).setWidth 16) (s.x86.poppedIn i (s.x86.opSize / 8))
        (if i = .x86PopSs then fun q => q.inhibit s.x86.inhibitNext else id) := by
    have answers : X86Answers i s (popSelector g (s.x86.entered i)) := hi
    rw [popSelector_entered hp] at answers
    rw [if_neg hss]
    exact ⟨fun q hq => hq ▸ answers, fun e he => he ▸ answers⟩
  simp only [List.mem_cons, Prod.mk.injEq, List.not_mem_nil, or_false] at hi
  rcases hi with ⟨rfl, rfl⟩ | ⟨rfl, rfl⟩ | ⟨rfl, rfl⟩ | ⟨rfl, rfl⟩ | ⟨rfl, rfl⟩
  case inr.inr.inr.inr =>
    rw [if_pos rfl]
    refine ⟨fun q hq => ?_, fun e he => ?_⟩ <;>
      show execX86PopSs s = _ <;> rw [execX86PopSs, x86Do, popSelector_entered hp]
    · rw [hq]
    · rw [he]
  all_goals exact plain rfl (by simp)

end

/-- `q` is the state before but for segment register `g`, which holds `u`, and for the general registers, the inhibit
latch, EIP and the count of drawn values. -/
theorem X86State.loaded_frame {i : Instr} {s : State} {g : X86Sreg} {u : X86Seg} {q : X86State} {v : X86Seg → Prop}
    (hv : v u) (segs : q.segs = s.x86.segs.set g u) (mem : q.mem = s.x86.mem) (flags : q.flags = s.x86.flags)
    (eip : q.eip = s.x86.eip + BitVec.ofNat 32 (s.x86.lengthOf i)) (shutdown : q.shutdown = s.x86.shutdown)
    (system : q.system = s.x86.system) {y : X86State} (hy : y = { q with pfx := .none }) :
    (v (y.segs.get g) ∧ ∀ h, h ≠ g → y.segs.get h = s.x86.segs.get h) ∧
    X86State.KeepsControl s.x86 y ∧ Memory.Same s.x86.mem y.mem ∧ y.flags = s.x86.flags ∧
    X86State.Passes i s.x86 y := by
  obtain ⟨hpe, hvm, hiopl, hcpl, hac, hie, hparams⟩ := X86System.mk.inj system
  subst hy
  refine ⟨⟨?_, fun h hh => ?_⟩, ⟨hpe, hvm, hiopl, hcpl, hac, hie, shutdown, hparams, rfl⟩,
    fun a => congrArg (Memory.get · a) mem, flags, eip⟩
  · show v (q.segs.get g)
    rwa [segs, X86Segs.get_set, if_pos rfl]
  · show q.segs.get h = _
    rw [segs, X86Segs.get_set, if_neg hh]

/-- Settles O24: MOV loads in the state it entered with, POP in the one after the pop. -/
theorem segmentLoads : Obligations.SegmentLoads := by
  unfold Obligations.SegmentLoads
  intro s w rm sr g i d e hw top popped sel isNull
  subst hw
  refine ⟨movSregRm_of_ud rm s, ?_⟩
  intro hi after
  rcases hi with ⟨rfl, hr, hg⟩ | ⟨hi, hp⟩
  case inl =>
    obtain ⟨known, hcs⟩ : sregOf sr = some g ∧ g ≠ .cs := by
      simp only [List.mem_cons, Prod.mk.injEq, List.not_mem_nil, or_false] at hg
      rcases hg with ⟨rfl, rfl⟩ | ⟨rfl, rfl⟩ | ⟨rfl, rfl⟩ | ⟨rfl, rfl⟩ | ⟨rfl, rfl⟩ <;> exact ⟨rfl, by decide⟩
    have value : sel = s.x86.operand 16 rm := if_pos rfl
    have ends := movSregRm_endsWithLoad known hcs hr
    rw [← value] at ends
    refine ends.outcomes rfl hcs after (fun v u hu => ?_) d e
    obtain ⟨⟨loaded, others⟩, rest⟩ := X86State.loaded_frame (i := .x86MovSregRm sr rm) (s := s) (g := g)
      (q := { s.x86.entered (.x86MovSregRm sr rm) with segs := s.x86.segs.set g u }) hu rfl rfl rfl rfl rfl rfl rfl
    exact ⟨loaded, others, (if_pos rfl).mpr rfl, (if_neg (by simp)).mpr rfl, rest⟩
  case inr =>
    have hmov : i ≠ .x86MovSregRm sr rm := by
      rintro rfl
      simp at hi
    have hcs : g ≠ .cs := by
      rintro rfl
      simp at hi
    have value : sel = popped := if_neg hmov
    have ends : EndsWithLoad i s g popped _ _ := popSreg_endsWithLoad hp hi
    rw [← value] at ends
    refine ends.outcomes (X86State.system_setSp _ _) hcs after (fun v u hu => ?_) d e
    have segs : (s.x86.poppedIn i (s.x86.opSize / 8)).segs = s.x86.segs := X86State.setSp_segs _ _
    rw [segs]
    by_cases hss : i = .x86PopSs
    · rw [if_pos hss]
      obtain ⟨⟨loaded, others⟩, rest⟩ := X86State.loaded_frame (i := i) (s := s) (g := g)
        (q := X86State.inhibit { s.x86.poppedIn i (s.x86.opSize / 8) with segs := s.x86.segs.set g u }
          s.x86.inhibitNext) hu (X86State.inhibit_segs _ _)
        ((X86State.inhibit_mem _ _).trans (X86State.setSp_mem _ _))
        ((X86State.inhibit_flags _ _).trans (X86State.setSp_flags _ _)) (X86State.inhibit_eip _ _)
        ((X86State.inhibit_shutdown _ _).trans (X86State.setSp_shutdown _ _))
        ((X86State.system_inhibit _ _).trans (X86State.system_setSp _ _)) rfl
      exact ⟨loaded, others, (if_neg hmov).mpr (X86State.inhibit_gpr _ _),
        (if_pos hss).mpr fun was => congrArg X86State.inhibitNext (if_neg (Bool.eq_false_iff.1 was)), rest⟩
    · rw [if_neg hss]
      obtain ⟨⟨loaded, others⟩, rest⟩ := X86State.loaded_frame (i := i) (s := s) (g := g)
        (q := { s.x86.poppedIn i (s.x86.opSize / 8) with segs := s.x86.segs.set g u }) hu rfl
        (X86State.setSp_mem _ _) (X86State.setSp_flags _ _) rfl (X86State.setSp_shutdown _ _)
        (X86State.system_setSp _ _) rfl
      exact ⟨loaded, others, (if_neg hmov).mpr rfl, (if_neg hss).mpr rfl, rest⟩

end Sys2Proof.Machine
end

section
/-! PROOFS, P2: the condition codes (spec/41_arm.md R330, R331) and the shifter operands (R333 to R335). -/

namespace Sys2Proof.Machine

/-! ### Condition codes -/

/-- A condition has one code. -/
theorem code_eq_of_ofCode {code : BitVec 4} {c : ArmCond} (h : ArmCond.ofCode code = some c) : code = c.code := by
  have table : ∀ code : BitVec 4, ∀ k ∈ ArmCond.ofCode code, code = k.code := by decide
  exact table code c h

/-- 1111 is the only code without a condition. -/
theorem exists_ofCode {code : BitVec 4} (h : code ≠ 15#4) : ∃ c, ArmCond.ofCode code = some c := by
  have table : ∀ code : BitVec 4, code ≠ 15#4 → (ArmCond.ofCode code).isSome = true := by decide
  exact Option.isSome_iff_exists.1 (table code h)

theorem ArmState.passes_iff_holds (a : ArmState) (c : ArmCond) : a.passes c = true ↔ a.Holds c.code := by
  cases c with
  | eq | cs | mi | vs => exact Iff.rfl
  | ne | cc | pl | vc => exact iff_of_eq (Bool.not_eq_true' _)
  | hi | ls | gt | le => simp [ArmState.passes, ArmState.Holds, ArmCond.code]
  | ge => exact beq_iff_eq
  | lt => exact bne_iff_ne
  | al => exact iff_of_true rfl trivial

/-- The meaning of an instruction with a condition is behind the test of that condition. -/
theorem exec_of_armCondOf {i : Instr} {c : ArmCond} (h : armCondOf i = some c) (s : State) :
    ∃ body, exec i s = armDo c body s := by
  cases i <;> dsimp only [exec]
  case armSubImm | armSubLsl | armSubLsr | armAddImm | armAddLsl | armAddLsr | armAdcImm | armAdcLsl | armAdcLsr
      | armOrrImm | armOrrLsl | armOrrLsr | armMovImm | armMovLsl | armMovLsr | armLdrImm | armLdrReg | armB | armBl
      | armBx =>
    cases h
    exact ⟨_, rfl⟩
  all_goals cases h

theorem decodeArm_of_never {w : Word} (h : fld w 28 4 = 15#4) : decodeArm w = .error .armNever := by
  rw [decodeArm, h]
  rfl

/-- Settles O32: the model's test is the table's, and an instruction whose test fails only advances the PC. -/
theorem armConditionCodes : Obligations.ArmConditionCodes := by
  unfold Obligations.ArmConditionCodes
  intro s i code c w
  have test (hc : ArmCond.ofCode code = some c) : s.arm.passes c = true ↔ s.arm.Holds code := by
    rw [code_eq_of_ofCode hc]
    exact s.arm.passes_iff_holds c
  refine ⟨exists_ofCode, test, fun hc hi hfails => ?_, decodeArm_of_never⟩
  obtain ⟨body, hexec⟩ := exec_of_armCondOf hi s
  have fails : s.arm.passes c = false := Bool.eq_false_iff.2 (mt (test hc).1 hfails)
  exact ⟨s.arm.advance, hexec.trans (armDo_of_fails fails), s.arm.pc_advance,
    ⟨fun n hn _ => s.arm.reg_advance n hn, rfl, rfl, fun _ => rfl⟩, rfl⟩

/-! ### Shifter operands -/

section
variable (a : ArmState) (rm : BitVec 4) {sh : BitVec 5}

theorem ArmState.opLsl_zero : a.opLsl 0 rm = (a.readReg rm, a.c) := rfl

theorem ArmState.opLsr_zero : a.opLsr 0 rm = (0, (a.readReg rm).msb) := rfl

theorem ArmState.opLsl_of_ne (h : sh ≠ 0) :
    a.opLsl sh rm = (a.readReg rm <<< sh.toNat, (a.readReg rm).getLsbD (32 - sh.toNat)) := if_neg h

theorem ArmState.opLsr_of_ne (h : sh ≠ 0) :
    a.opLsr sh rm = (a.readReg rm >>> sh.toNat, (a.readReg rm).getLsbD (sh.toNat - 1)) := if_neg h

end

/-- Settles O33: shift amount 0 is the special case of each operand, the others shift. -/
theorem armShiftedOperands : Obligations.ArmShiftedOperands := by
  unfold Obligations.ArmShiftedOperands
  intro a rm rn sh v
  have nonzero (h : 0 < sh.toNat) : sh ≠ 0 := by
    rintro rfl
    exact absurd h (by decide)
  refine ⟨rfl, a.opLsl_zero rm, fun h => ?_, ?_, fun h => ?_⟩
  · rw [a.opLsl_of_ne rm (nonzero h)]
    exact ⟨by rw [BitVec.toNat_shiftLeft, Nat.shiftLeft_eq]; rfl, rfl⟩
  · rw [a.opLsr_zero rm, BitVec.msb_eq_getLsbD_last]
    rfl
  · rw [a.opLsr_of_ne rm (nonzero h)]
    exact ⟨by rw [BitVec.toNat_ushiftRight, Nat.shiftRight_eq_div_pow]; rfl, rfl⟩

/-- A rotation to the right, bit by bit. -/
theorem getLsbD_rotateRight_word (v : Word) {n k : Nat} (hn : n < 32) (hk : k < 32) :
    (v.rotateRight n).getLsbD k = v.getLsbD ((k + n) % 32) := by
  rw [BitVec.getLsbD_rotateRight, Nat.mod_eq_of_lt hn, Bool.cond_eq_ite]
  by_cases h : k < 32 - n
  · rw [if_pos (decide_eq_true h)]
    congr 1
    omega
  · rw [if_neg (by simpa using h), decide_eq_true hk, Bool.true_and]
    congr 1
    omega

/-- Settles O34: the operand is a rotation by twice the field, the carry-out its top bit. -/
theorem armImmediateOperand : Obligations.ArmImmediateOperand := by
  unfold Obligations.ArmImmediateOperand
  intro a rot imm
  have value : (a.opImm rot imm).1 = (imm.setWidth 32).rotateRight (2 * rot.toNat) := rfl
  have carry : (a.opImm rot imm).2 = if rot = 0 then a.c else (a.opImm rot imm).1.msb := rfl
  refine ⟨fun k hk => ?_, ?_⟩
  · rw [value, getLsbD_rotateRight_word _ (by omega) hk, BitVec.getLsbD_setWidth,
      decide_eq_true (Nat.mod_lt _ (by decide)), Bool.true_and]
  · rw [carry, BitVec.msb_eq_getLsbD_last]

end Sys2Proof.Machine
end

section
/-! PROOFS, P2: data processing that writes a register other than R15 (spec/41_arm.md R332, R336 to R348). -/

namespace Sys2Proof.Machine

/-! ### The result written -/

section
variable (a : ArmState) (status r : Word) {rd : BitVec 4} (hrd : rd ≠ 15#4)
include hrd

/-- CPSR and a register written, and the next instruction: what a data-processing instruction leaves. -/
theorem ArmState.wrote_register :
    ∃ b, (({ a with cpsr := status }).setReg rd r).advance = b ∧ b.reg rd = r ∧ b.pc = a.pc + 4 ∧
      ArmState.Keeps [rd] a b ∧ b.cpsr = status := by
  have reg (n : BitVec 4) (hn : n ≠ 15#4) :
      (({ a with cpsr := status }).setReg rd r).advance.reg n = if n = rd then r else a.reg n :=
    (ArmState.reg_advance _ n hn).trans (ArmState.reg_setReg _ rd n r)
  have pc : (({ a with cpsr := status }).setReg rd r).pc = a.pc :=
    (ArmState.reg_setReg _ rd 15 r).trans (if_neg (Ne.symm hrd))
  refine ⟨_, rfl, (reg rd hrd).trans (if_pos rfl), ?_, ⟨fun n hn hne => ?_, rfl, rfl, fun _ => rfl⟩, rfl⟩
  · rw [ArmState.pc_advance, pc]
  · rw [reg n hn, if_neg (List.ne_of_not_mem_cons hne)]

theorem armResult_of_ne (sf : Bool) (set : ArmState → ArmState) :
    armResult sf rd r set a = .ok (((if sf then set a else a).setReg rd r).advance) := if_neg hrd

end

/-- An instruction that ends in `armResult`: the result and the next instruction, and the flags with S = 1 only. -/
theorem completes_of_armResult {s : State} {c : ArmCond} {i : Instr} {sf : Bool} {rd : BitVec 4} {r : Word} {cf : Bool}
    {vf : ArmState → Bool} {C V : Prop} (hp : s.arm.passes c = true) (hrd : rd ≠ 15#4)
    (hexec : exec i s = armDo c (fun _ => armResult sf rd r (fun b => b.setResultFlags r cf (vf b)) s.arm) s)
    (hcf : cf = true ↔ C) (hvf : vf s.arm = true ↔ V) :
    ArmCompletes i s fun b => b.reg rd = r ∧ b.pc = s.arm.pc + 4 ∧ ArmState.Keeps [rd] s.arm b ∧
      (sf = true → ArmState.Flagged s.arm b r C V) ∧ (sf = false → b.cpsr = s.arm.cpsr) := by
  have next := hexec.trans (armDo_of_ok hp (armResult_of_ne s.arm r hrd sf _))
  cases sf with
  | false =>
    obtain ⟨b, rfl, hreg, hpc, hkeeps, hcpsr⟩ := s.arm.wrote_register s.arm.cpsr r hrd
    exact ⟨_, next, hreg, hpc, hkeeps, nofun, fun _ => hcpsr⟩
  | true =>
    obtain ⟨hn, hz, hc, hv, hrest⟩ := s.arm.flagged_setResultFlags r cf (vf s.arm)
    obtain ⟨b, rfl, hreg, hpc, hkeeps, -⟩ :=
      s.arm.wrote_register (s.arm.setResultFlags r cf (vf s.arm)).cpsr r hrd
    exact ⟨_, next, hreg, hpc, hkeeps, fun _ => ⟨hn, hz, hc.trans hcf, hv.trans hvf, hrest⟩, nofun⟩

/-! ### The five instructions -/

/-- The overflow of a sum without carry-in. -/
theorem overflowAdd_word_add (x y : Word) :
    overflowAdd x y (x + y) = true ↔ Overflows32 (x.toInt + y.toInt) := by
  simpa [addWith_false] using overflowAdd_word x y false

/-- C means no borrow (spec/41_arm.md R346). -/
theorem not_borrowFrom_iff (x y : Word) : (!borrowFrom x y) = true ↔ y.toNat ≤ x.toNat := by
  rw [Bool.not_eq_true', ← Bool.not_eq_true, borrowFrom_iff, Nat.not_lt]

/-- Settles O35: each instruction ends in `armResult` on its operand, with the flags of its own arithmetic. -/
theorem armDataProcessing : Obligations.ArmDataProcessing := by
  unfold Obligations.ArmDataProcessing
  intro s c sf rn rd rot rm imm sh o mov orr add adc sub hp hrd hi x y carry gives
  obtain ⟨hmov, horr, hadd, hadc, hsub⟩ :
      exec mov s = armDo c (fun _ => armMov sf rd o s.arm) s ∧
      exec orr s = armDo c (fun _ => armOrr sf rn rd o s.arm) s ∧
      exec add s = armDo c (fun _ => armAdd sf rn rd o s.arm) s ∧
      exec adc s = armDo c (fun _ => armAdc sf rn rd o s.arm) s ∧
      exec sub s = armDo c (fun _ => armSub sf rn rd o s.arm) s := by
    simp only [List.mem_cons, Prod.mk.injEq, List.not_mem_nil, or_false] at hi
    rcases hi with ⟨rfl, rfl, rfl, rfl, rfl, rfl⟩ | ⟨rfl, rfl, rfl, rfl, rfl, rfl⟩ | ⟨rfl, rfl, rfl, rfl, rfl, rfl⟩
    all_goals exact ⟨rfl, rfl, rfl, rfl, rfl⟩
  rw [armMov_eq] at hmov
  rw [armOrr_eq] at horr
  rw [armAdd_eq] at hadd
  rw [armAdc_eq, addWith_eq] at hadc
  rw [armSub_eq] at hsub
  have overflowAdc := overflowAdd_word x y s.arm.c
  rw [addWith_eq] at overflowAdc
  exact ⟨completes_of_armResult hp hrd hmov Iff.rfl Iff.rfl, completes_of_armResult hp hrd horr Iff.rfl Iff.rfl,
    completes_of_armResult hp hrd hadd (carryFrom_iff x y false) (overflowAdd_word_add x y),
    completes_of_armResult hp hrd hadc (carryFrom_iff x y s.arm.c) overflowAdc,
    completes_of_armResult hp hrd hsub (not_borrowFrom_iff x y) (overflowSub_word x y)⟩

end Sys2Proof.Machine
end

section
/-! PROOFS, P3: sums, rotates, branches and moves to special registers (spec/42_powerpc.md R391 to R408). -/

namespace Sys2Proof.Machine

/-! ### MASK and ROTL -/

theorem inMask_iff (mb me : BitVec 5) (i : Nat) :
    inMask mb.toNat me.toNat i = true ↔
      if mb ≤ me then mb.toNat ≤ i ∧ i ≤ me.toNat else mb.toNat ≤ i ∨ i ≤ me.toNat := by
  unfold inMask
  by_cases h : mb ≤ me
  · rw [if_pos h, if_pos (BitVec.le_def.1 h), decide_eq_true_iff]
  · rw [if_neg h, if_neg (mt BitVec.le_def.2 h), decide_eq_true_iff]

/-- MASK at bit {i}, which is bit 31 − i (spec/42_powerpc.md R403). -/
theorem getLsbD_ppcMask_sub (mb me : BitVec 5) {i : Nat} (hi : i < 32) :
    (ppcMask mb me).getLsbD (31 - i) = inMask mb.toNat me.toNat i := by
  rw [getLsbD_ppcMask mb me (31 - i) (by omega), Nat.sub_sub_self (by omega)]

/-- Settles O39: MASK is `inMask`, which asks for both ends or, wrapped, for one of them. -/
theorem ppcMaskRotate : Obligations.PpcMaskRotate := by
  unfold Obligations.PpcMaskRotate
  intro mb me n v i hi
  refine ⟨?mask, getLsbD_rotl v n i hi⟩
  rw [getLsbD_ppcMask_sub mb me hi, inMask_iff]
  by_cases h : mb ≤ me
  · simp [h, BitVec.not_lt.2 h]
  · simp [h, BitVec.not_le.1 h]

/-! ### A register written -/

/-- rD holds `v` and CIA is past the instruction; CR and XER apart, nothing else changed. -/
def PpcState.Sets (rD : BitVec 5) (p : PpcState) (v : Word) (q : PpcState) : Prop :=
  q.reg rD = v ∧ PpcState.Keeps [rD] p q ∧ q.lr = p.lr ∧ q.ctr = p.ctr ∧ q.cia = p.cia + 4

/-- A register, XER and, by the recording forms alone, CR0 written: what an instruction of P3 leaves. -/
theorem PpcState.wrote_register (p : PpcState) (rD : BitVec 5) (v xer : Word) (rc : Bool) :
    ∃ q, (({ p.setReg rD v with xer := xer }).record rc v).advance = q ∧ PpcState.Sets rD p v q ∧ q.xer = xer ∧
      (rc = true → PpcState.Recorded p q v) ∧ (rc = false → q.cr = p.cr) := by
  have reg (n : BitVec 5) :
      (({ p.setReg rD v with xer := xer }).record rc v).advance.reg n = if n = rD then v else p.reg n := by
    rw [← PpcState.reg_setReg, PpcState.reg, PpcState.reg, PpcState.advance_gpr, PpcState.record_gpr]
  refine ⟨_, rfl, ⟨(reg rD).trans (if_pos rfl), ⟨fun n hn => ?_, PpcState.record_params _ rc v, fun a => ?_⟩,
    PpcState.record_lr _ rc v, PpcState.record_ctr _ rc v, congrArg (· + 4) (PpcState.record_cia _ rc v)⟩,
    PpcState.record_xer _ rc v, ?_, ?_⟩
  · rw [reg n, if_neg (List.ne_of_not_mem_cons hn)]
  · exact congrArg (Memory.get · a) (PpcState.record_mem _ rc v)
  · rintro rfl
    exact PpcState.recorded_setCr0 p { p.setReg rD v with xer := xer } v rfl
  · rintro rfl
    rfl

/-! ### Sums -/

/-- XER after a sum, bit by bit (spec/42_powerpc.md R391). -/
theorem PpcState.getLsbD_setXerSum (p : PpcState) (a b : Word) (c oe : Bool) (k : Nat) :
    (p.setXerSum a b c oe).xer.getLsbD k =
      if oe = true ∧ k = 31 then p.so || overflowAdd a b (addWith a b c)
      else if oe = true ∧ k = 30 then overflowAdd a b (addWith a b c)
      else if k = 29 then carryFrom a b c
      else p.xer.getLsbD k := by
  cases oe <;> simp [PpcState.setXerSum, getLsbD_putBit]

section
variable {p q : PpcState} {a b : Word} {c oe : Bool} (h : q.xer = (p.setXerSum a b c oe).xer)
include h

theorem PpcState.ca_of_setXerSum : q.ca = true ↔ 2 ^ 32 ≤ a.toNat + b.toNat + c.toNat := by
  rw [PpcState.ca, h, p.getLsbD_setXerSum, if_neg (by omega), if_neg (by omega), if_pos rfl, carryFrom_iff]

theorem PpcState.ov_so_of_setXerSum (hoe : oe = true) :
    (q.ov = true ↔ Overflows32 (a.toInt + b.toInt + c.toNat)) ∧ q.so = (p.so || q.ov) := by
  subst hoe
  have hov : q.ov = overflowAdd a b (addWith a b c) := by
    rw [PpcState.ov, h, p.getLsbD_setXerSum]
    rfl
  refine ⟨by rw [hov, overflowAdd_word], ?_⟩
  rw [hov, PpcState.so, h, p.getLsbD_setXerSum]
  rfl

theorem PpcState.keeps_ov_so_of_setXerSum (hoe : oe = false) : q.ov = p.ov ∧ q.so = p.so := by
  subst hoe
  rw [PpcState.ov, PpcState.so, h, p.getLsbD_setXerSum, p.getLsbD_setXerSum]
  exact ⟨rfl, rfl⟩

theorem PpcState.low_bits_of_setXerSum {k : Nat} (hk : k < 29) : q.xer.getLsbD k = p.xer.getLsbD k := by
  rw [h, p.getLsbD_setXerSum, if_neg (by omega), if_neg (by omega), if_neg (by omega)]

end

/-- Settles O40: addi and li write one register; addc and addze are `ppcSum` on their operands. -/
theorem ppcSums : Obligations.PpcSums := by
  unfold Obligations.PpcSums
  intro s rD rA rB simm oe rc p kept plain sums
  have writes {i : Instr} {v w : Word} (hexec : exec i s = ppcDo (fun _ => .ok (p.setReg rD v).advance) s)
      (hv : v = w) : PpcCompletes i s (plain w) := by
    subst hv
    obtain ⟨q, hq, ⟨hreg, hkept⟩, hxer, -, hcr⟩ := p.wrote_register rD v p.xer false
    exact ⟨q, hexec.trans (ppcDo_of_ok (congrArg Except.ok hq)), hreg, hkept, hxer, hcr rfl⟩
  have adds {i : Instr} {a b : Word} {c : Bool} (hexec : exec i s = ppcDo (ppcSum rD a b c oe rc) s) :
      PpcCompletes i s (sums a b c.toNat) := by
    obtain ⟨q, hq, ⟨hreg, hkept⟩, hxer, hrc, hcr⟩ :=
      p.wrote_register rD (addWith a b c) (p.setXerSum a b c oe).xer rc
    have next : exec i s = .next { s with ppc := q } := hexec.trans (ppcDo_of_ok (congrArg Except.ok hq))
    rw [addWith_eq] at hreg hrc
    exact ⟨q, next, hreg, hkept, PpcState.ca_of_setXerSum hxer, PpcState.ov_so_of_setXerSum hxer,
      PpcState.keeps_ov_so_of_setXerSum hxer, fun _ => PpcState.low_bits_of_setXerSum hxer, hrc, hcr⟩
  exact ⟨writes rfl rfl, writes rfl (BitVec.zero_add _), adds (c := false) rfl, adds (c := p.ca) rfl⟩

/-! ### Rotates -/

/-- The result of rlwinm, `rest` being 0, and of rlwimi, `rest` being rA: the rotated bit inside the mask, the bit of
`rest` outside it (spec/42_powerpc.md R402, R404). -/
theorem getLsbD_insert_ppcMask (v rest : Word) (sh mb me : BitVec 5) {k : Nat} (hk : k < 32) :
    ((rotl v sh &&& ppcMask mb me) ||| (rest &&& ~~~(ppcMask mb me))).getLsbD (31 - k) =
      if inMask mb.toNat me.toNat k then v.getLsbD (31 - (k + sh.toNat) % 32) else rest.getLsbD (31 - k) := by
  rw [BitVec.getLsbD_or, BitVec.getLsbD_and, BitVec.getLsbD_and, BitVec.getLsbD_not, getLsbD_ppcMask_sub mb me hk,
    getLsbD_rotl v sh k hk, decide_eq_true (show 31 - k < 32 by omega)]
  cases inMask mb.toNat me.toNat k <;> simp

/-- rlwinm inserts into 0, rlwimi into rA. -/
theorem exec_rotate {s : State} {i : Instr} {rest : Word} {rA rS sh mb me : BitVec 5} {rc : Bool}
    (hi : (i, rest) ∈ [(Instr.ppcRlwinm rA rS sh mb me rc, 0#32), (.ppcRlwimi rA rS sh mb me rc, s.ppc.reg rA)]) :
    exec i s = ppcDo (ppcRotated rA
      ((rotl (s.ppc.reg rS) sh &&& ppcMask mb me) ||| (rest &&& ~~~(ppcMask mb me))) rc) s := by
  simp only [List.mem_cons, Prod.mk.injEq, List.not_mem_nil, or_false] at hi
  rcases hi with ⟨rfl, rfl⟩ | ⟨rfl, rfl⟩
  · rw [BitVec.zero_and, BitVec.or_zero]
    rfl
  · rfl

/-- Settles O41: both instructions insert the rotated word under the mask. -/
theorem ppcRotates : Obligations.PpcRotates := by
  unfold Obligations.PpcRotates
  intro s rA rS sh mb me rc i rest hi inside
  have mask (k : Nat) : inMask mb.toNat me.toNat k = true ↔ inside k := inMask_iff mb me k
  obtain ⟨q, hq, ⟨hreg, hkeeps, hlr, hctr, hcia⟩, hxer, hrc, hcr⟩ := s.ppc.wrote_register rA
    ((rotl (s.ppc.reg rS) sh &&& ppcMask mb me) ||| (rest &&& ~~~(ppcMask mb me))) s.ppc.xer rc
  have next : exec i s = .next { s with ppc := q } := (exec_rotate hi).trans (ppcDo_of_ok (congrArg Except.ok hq))
  have bits (k : Nat) (hk : k < 32) := getLsbD_insert_ppcMask (s.ppc.reg rS) rest sh mb me hk
  rw [← hreg] at hrc bits
  exact ⟨q, next, fun k hk => ⟨fun h => (bits k hk).trans (if_pos ((mask k).2 h)),
    fun h => (bits k hk).trans (if_neg (mt (mask k).1 h))⟩, hkeeps, hxer, hlr, hctr, hcia, hrc, hcr⟩

/-! ### Branches -/

/-- `ctr_ok & cond_ok` (spec/42_powerpc.md R400, R401). -/
theorem PpcState.branches_iff (p : PpcState) (bo bi : BitVec 5) :
    p.branches bo bi = true ↔ (bo.getLsbD 2 = true ∨ (p.ctrAfter bo ≠ 0 ↔ bo.getLsbD 1 = false)) ∧
      (bo.getLsbD 4 = true ∨ p.cr.getLsbD (31 - bi.toNat) = bo.getLsbD 3) := by
  have counted : ((p.ctrAfter bo != 0) ^^ bo.getLsbD 1) = true ↔ (p.ctrAfter bo ≠ 0 ↔ bo.getLsbD 1 = false) := by
    cases bo.getLsbD 1 <;> simp
  rw [PpcState.branches, Bool.and_eq_true, Bool.or_eq_true, Bool.or_eq_true, counted, beq_iff_eq, PpcState.crBit]

/-- The target of bc, its displacement written as BD || 0b00 (spec/42_powerpc.md R400). -/
theorem PpcState.bcTarget_eq (p : PpcState) (bd : BitVec 14) (aa : Bool) :
    p.bcTarget bd aa = if aa then (bd ++ 0#2).signExtend 32 else p.cia + (bd ++ 0#2).signExtend 32 := by
  rw [PpcState.bcTarget, signExtend_append_zero bd 2 32 (by decide)]

/-- What a branch leaves, `taken` saying when it is taken and `link` when LR is written. -/
theorem completes_of_ppcBranch {i : Instr} {s : State} {bo bi : BitVec 5} {lk : Bool} {t target : Word}
    {taken link : Prop} (hexec : exec i s = ppcDo (ppcBranch bo bi lk t) s) (htarget : t = target)
    (htaken : s.ppc.branches bo bi = true ↔ taken) (hlink : lk = true ↔ link) :
    PpcCompletes i s fun q => (taken → q.cia = target) ∧ (¬ taken → q.cia = s.ppc.cia + 4) ∧
      q.ctr = s.ppc.ctrAfter bo ∧ (link → q.lr = s.ppc.cia + 4) ∧ (¬ link → q.lr = s.ppc.lr) ∧ q.cr = s.ppc.cr ∧
      q.xer = s.ppc.xer ∧ PpcState.Keeps [] s.ppc q :=
  ⟨_, hexec.trans (ppcDo_of_ok rfl), fun h => (if_pos (htaken.2 h)).trans htarget, fun h => if_neg (mt htaken.1 h), rfl,
    fun h => if_pos (hlink.2 h), fun h => if_neg (mt hlink.1 h), rfl, rfl, fun _ _ => rfl, rfl, fun _ => rfl⟩

/-- Settles O42: the three instructions are `ppcBranch`; blr is the form of bclr that is always taken. -/
theorem ppcBranches : Obligations.PpcBranches := by
  unfold Obligations.PpcBranches
  intro s bo bi bd aa lk p ctr ok disp toLr went
  have always : p.branches 20 0 = true ↔ True := iff_true_intro rfl
  have toLr_eq : p.lrTarget = toLr := clear_low_two p.lr
  exact ⟨completes_of_ppcBranch rfl (p.bcTarget_eq bd aa) (p.branches_iff bo bi) Iff.rfl,
    completes_of_ppcBranch rfl toLr_eq (p.branches_iff bo bi) Iff.rfl,
    completes_of_ppcBranch rfl toLr_eq always (by decide)⟩

/-! ### Moves to special registers -/

/-- How mtspr stops for each outcome of PPC_MTSPR_OTHER (spec/42_powerpc.md R395). -/
def PpcMtsprOther.stop : PpcMtsprOther → Stop PpcState
  | .illegalInstruction => .raises .ppcIllegal
  | .supervisorInstruction => .raises .ppcSupervisor
  | .boundedlyUndefined => .refuses .ppcBoundedlyUndefined

section
variable {n : BitVec 10} (rS : BitVec 5) (p : PpcState) (h1 : n ≠ 1#10) (h8 : n ≠ 8#10) (h9 : n ≠ 9#10)
include h1 h8 h9

theorem ppcMtsprBody_of_user (hu : p.params.user = true) :
    ppcMtsprBody n rS p = .error (PpcMtsprOther.stop (PpcParams.mtsprOther p.params n)) := by
  rw [ppcMtsprBody, if_neg h1, if_neg h8, if_neg h9, if_pos hu]
  cases PpcParams.mtsprOther p.params n <;> rfl

theorem ppcMtsprBody_of_supervisor (hu : p.params.user = false) :
    ppcMtsprBody n rS p = .error (.refuses .ppcSupervisorSpr) := by
  rw [ppcMtsprBody, if_neg h1, if_neg h8, if_neg h9, hu]
  rfl

end

/-- Settles O43: the names are mtspr with their number; a number outside the three stops the instruction. -/
theorem ppcMoveToSpr : Obligations.PpcMoveToSpr := by
  unfold Obligations.PpcMoveToSpr
  intro s n rS i hi p other
  have hexec : exec i s = ppcDo (ppcMtsprBody n rS) s := by
    simp only [List.mem_cons, Prod.mk.injEq, List.not_mem_nil, or_false] at hi
    rcases hi with rfl | ⟨rfl, rfl⟩ | ⟨rfl, rfl⟩ | ⟨rfl, rfl⟩
    all_goals rfl
  have stops {k : PpcMtsprOther} (h : other k) :
      exec i s = finish s (fun q => { s with ppc := q }) (.error (PpcMtsprOther.stop k)) := by
    obtain ⟨h1, h8, h9, hu, rfl⟩ := h
    rw [hexec, ppcDo, ppcMtsprBody_of_user rS p h1 h8 h9 hu]
  refine ⟨?moves, stops, stops, stops, fun h1 h8 h9 hu => ?refused⟩
  case moves =>
    rintro (rfl | rfl | rfl)
    all_goals exact ⟨_, hexec.trans (ppcDo_of_ok rfl), rfl, rfl, rfl, rfl, ⟨fun _ _ => rfl, rfl, fun _ => rfl⟩, rfl⟩
  case refused =>
    rw [hexec, ppcDo, ppcMtsprBody_of_supervisor rS p h1 h8 h9 hu]
    rfl

end Sys2Proof.Machine
end

section
/-! PROOFS, P4: condition codes and jumps (spec/43_sparc.md R451, R454, R456, R465, R470). -/

namespace Sys2Proof.Machine

/-! ### Operand and register written -/

/-- operand2 is r[rs2] or simm13 sign-extended (spec/43_sparc.md R451). -/
theorem SparcState.op2_eq_of_mem {p : SparcState} {o : SparcOp2} {y : Word} {rs2 : BitVec 5} {simm : BitVec 13}
    (h : (o, y) ∈ [(SparcOp2.reg rs2, p.reg rs2), (.imm simm, simm.signExtend 32)]) : p.op2 o = y := by
  simp only [List.mem_cons, Prod.mk.injEq, List.not_mem_nil, or_false] at h
  rcases h with ⟨rfl, rfl⟩ | ⟨rfl, rfl⟩
  all_goals rfl

section
variable (p : SparcState) (rd : BitVec 5) (v : Word)

@[simp] theorem SparcState.reg_setReg_same : (p.setReg rd v).reg rd = if rd = 0 then 0 else v :=
  (p.reg_setReg rd rd v).trans (if_pos rfl)

theorem SparcState.keeps_setReg : SparcState.Keeps [rd] p (p.setReg rd v) :=
  ⟨fun n hn => (p.reg_setReg rd n v).trans (if_neg (List.ne_of_not_mem_cons hn)), p.setReg_y rd v, p.setReg_wim rd v,
    p.setReg_tbr rd v, p.setReg_params rd v, fun a => congrArg (Memory.get · a) (p.setReg_mem rd v)⟩

end

/-! ### Condition codes -/

section
variable (p : SparcState) (a b : Word)

/-- ADDcc's codes: v is the overflow of the sum and c its carry (spec/43_sparc.md R454). -/
theorem SparcState.setIccAdd_eq :
    p.setIccAdd a b = p.setIcc (a + b).msb (a + b == 0) (overflowAdd a b (a + b)) (carryFrom a b false) := by
  rw [SparcState.setIccAdd, sparc_overflow_add, sparc_carry]

/-- SUBcc's codes: v is the overflow of the difference and c its borrow (spec/43_sparc.md R456). -/
theorem SparcState.setIccSub_eq :
    p.setIccSub a b = p.setIcc (a - b).msb (a - b == 0) (overflowSub a b (a - b)) (borrowFrom a b) := by
  rw [SparcState.setIccSub, sparc_overflow_sub, sparc_borrow]

end

/-- The codes of a result, `ovf` and `carry` being what v and c mean. -/
theorem SparcState.coded_setIcc (p : SparcState) (r : Word) {v c : Bool} {ovf carry : Prop} (hv : v = true ↔ ovf)
    (hc : c = true ↔ carry) : SparcState.Coded p (p.setIcc r.msb (r == 0) v c) r ovf carry := by
  obtain ⟨hn, hz, hv', hc', hrest⟩ := p.setIcc_codes r.msb (r == 0) v c
  exact ⟨hn, by rw [hz, beq_iff_eq], by rw [hv', hv], by rw [hc', hc], hrest⟩

/-- A register and the codes of the result written: also for rd = 0, where the result itself is discarded. -/
theorem completes_of_setIcc {i : Instr} {s : State} {rd : BitVec 5} {r : Word} {v c : Bool} {ovf carry : Prop}
    (hexec : exec i s = sparcDo (fun _ => .ok ((s.sparc.setReg rd r).setIcc r.msb (r == 0) v c)) s)
    (hv : v = true ↔ ovf) (hc : c = true ↔ carry) :
    SparcCompletes i s fun q => q.reg rd = (if rd = 0 then 0 else r) ∧ SparcState.Keeps [rd] s.sparc q ∧
      SparcState.Advances s.sparc q ∧ SparcState.Coded s.sparc q r ovf carry := by
  have next := hexec.trans (sparcDo_of_ok rfl)
  have coded := (s.sparc.setReg rd r).coded_setIcc r hv hc
  rw [SparcState.Coded, SparcState.setReg_psr] at coded
  refine ⟨_, next, s.sparc.reg_setReg_same rd r, s.sparc.keeps_setReg rd r, ⟨?pc, ?npc, ?annul, rfl⟩, coded⟩
  case pc => exact s.sparc.setReg_npc rd r
  case npc => exact congrArg (· + 4) (s.sparc.setReg_npc rd r)
  case annul => exact s.sparc.setReg_annulNext rd r

/-- Settles O46: each instruction writes the codes of its result; cmp is SUBcc to r[0]. -/
theorem sparcConditionCodes : Obligations.SparcConditionCodes := by
  unfold Obligations.SparcConditionCodes
  intro s rs1 rd rs2 simm o y ho p x gives
  have hy : p.op2 o = y := SparcState.op2_eq_of_mem ho
  have add : exec (.sparcAddcc rs1 o rd) s =
      sparcDo (fun _ => .ok ((p.setReg rd (x + p.op2 o)).setIccAdd x (p.op2 o))) s := rfl
  have sub : exec (.sparcSubcc rs1 o rd) s =
      sparcDo (fun _ => .ok ((p.setReg rd (x - p.op2 o)).setIccSub x (p.op2 o))) s := rfl
  have cmp : exec (.sparcCmp rs1 o) s =
      sparcDo (fun _ => .ok ((p.setReg 0 (x - p.op2 o)).setIccSub x (p.op2 o))) s := rfl
  rw [SparcState.setIccAdd_eq, hy] at add
  rw [SparcState.setIccSub_eq, hy] at sub cmp
  exact ⟨completes_of_setIcc add (overflowAdd_word_add x y) (carryFrom_iff x y false),
    completes_of_setIcc sub (overflowSub_word x y) (borrowFrom_iff x y),
    completes_of_setIcc cmp (overflowSub_word x y) (borrowFrom_iff x y)⟩

/-! ### Jumps -/

section
variable {p : SparcState} {rs1 : BitVec 5} {o : SparcOp2} (link : BitVec 5)

theorem sparcJmplBody_of_aligned (h : (p.reg rs1 + p.op2 o).toNat % 4 = 0) :
    sparcJmplBody rs1 o link p = .ok ((p.setReg link p.pc).transfer (p.reg rs1 + p.op2 o) false) :=
  if_neg (not_not.2 ((low_bits_zero _).2 h))

/-- A misaligned target: nothing is written (D23). -/
theorem sparcJmplBody_of_misaligned (h : (p.reg rs1 + p.op2 o).toNat % 4 ≠ 0) :
    sparcJmplBody rs1 o link p = .error (.raises (.sparcNotAligned none)) :=
  if_pos (mt (low_bits_zero _).1 h)

end

/-- JMPL and its names are one body, on the operands that give `target` (spec/43_sparc.md R465, R470). -/
theorem exec_jump {s : State} {rs1 rd link : BitVec 5} {o : SparcOp2} {y target : Word} {i : Instr}
    (hy : s.sparc.op2 o = y)
    (hi : (i, link, target) ∈ [(Instr.sparcJmpl rs1 o rd, rd, s.sparc.reg rs1 + y),
      (.sparcJmp rs1 o, 0#5, s.sparc.reg rs1 + y), (.sparcCall rs1 o, 15#5, s.sparc.reg rs1 + y),
      (.sparcRet, 0#5, s.sparc.reg 31 + 8), (.sparcRetl, 0#5, s.sparc.reg 15 + 8)]) :
    ∃ base off, exec i s = sparcTransferDo (sparcJmplBody base off link) s ∧
      s.sparc.reg base + s.sparc.op2 off = target := by
  subst hy
  simp only [List.mem_cons, Prod.mk.injEq, List.not_mem_nil, or_false] at hi
  rcases hi with ⟨rfl, rfl, rfl⟩ | ⟨rfl, rfl, rfl⟩ | ⟨rfl, rfl, rfl⟩ | ⟨rfl, rfl, rfl⟩ | ⟨rfl, rfl, rfl⟩
  all_goals exact ⟨_, _, rfl, rfl⟩

/-- Settles O48: outside a delay slot the instruction is `sparcJmplBody`, which asks whether the target is aligned. -/
theorem sparcJumps : Obligations.SparcJumps := by
  unfold Obligations.SparcJumps
  intro s rs1 rd rs2 simm o y i link target ho hi p
  obtain ⟨base, off, hexec, rfl⟩ := exec_jump (SparcState.op2_eq_of_mem ho) hi
  rw [sparcTransferDo_eq] at hexec
  have outside (hslot : p.inDelaySlot = false) :
      exec i s = finish s (fun q => { s with sparc := q }) (sparcJmplBody base off link p) :=
    hexec.trans (if_neg (Bool.eq_false_iff.1 hslot))
  refine ⟨fun hslot halign => ?aligned, fun hslot halign => ?misaligned, fun hslot => hexec.trans (if_pos hslot)⟩
  case aligned =>
    have next := outside hslot
    rw [sparcJmplBody_of_aligned link halign] at next
    exact ⟨_, next, p.reg_setReg_same link p.pc, p.setReg_npc link p.pc, rfl, rfl, rfl, p.setReg_psr link p.pc,
      p.keeps_setReg link p.pc⟩
  case misaligned =>
    have stop := outside hslot
    rw [sparcJmplBody_of_misaligned link halign] at stop
    exact stop

end Sys2Proof.Machine
end

section
/-! PROOFS, P5: BNE and JR (spec/44_mips32.md R536, R537, R540, R542; spec/30_encoding.md R197). -/

namespace Sys2Proof.Machine

/-! ### Control transfers -/

section
variable {i : Instr} {s : State} {pending : MipsPending} (hi : exec i s = mipsTransferDo (fun _ => .ok pending) s)
include hi

/-- Outside a delay slot the target is left pending and the delay slot is next (spec/10_state.md R54). -/
theorem mipsCompletes_transfer (hslot : s.mips.delayed = none) :
    MipsCompletes i s fun q => q.pc = s.mips.pc + 4 ∧ q.delayed = some pending ∧ q.isaMode = s.mips.isaMode ∧
      MipsState.Keeps [] s.mips q := by
  have outside : ¬ s.mips.delayed.isSome = true := by simp [hslot]
  exact ⟨_, hi.trans (if_neg outside), rfl, rfl, rfl, fun _ _ => rfl, rfl, fun _ => rfl⟩

/-- In a delay slot the release alone says what happens (spec/44_mips32.md R537). -/
theorem mipsTransfer_in_slot (hslot : s.mips.delayed ≠ none) :
    exec i s = if s.mips.params.release = .r6 then takeException .mipsReserved s else .refused .mipsCtiInSlot :=
  hi.trans (if_pos (Option.isSome_iff_ne_none.2 hslot))

end

/-! ### What is pending -/

/-- A failed condition leaves the fall-through address pending (spec/44_mips32.md R536). -/
theorem bneTarget_eq (x y pc : Word) (off : BitVec 16) :
    (if x ≠ y then pc + 4#32 + (off.signExtend 32 <<< 2) else pc + 8) =
      if x = y then pc + 8 else pc + 4 + (off ++ 0#2).signExtend 32 := by
  rw [ite_not, signExtend_append_zero off 2 32 (by decide)]
  rfl

/-- With a second instruction set bit 0 of the register is the pending ISAMode (spec/44_mips32.md R540). -/
theorem MipsState.jrPending_eq (p : MipsState) (rs : BitVec 5) :
    p.jrPending rs = if p.params.config3ISA = 0 ∧ p.params.config1CA = 0 then { target := p.reg rs, isa := none }
      else { target := (p.reg rs).extractLsb' 1 31 ++ 0#1, isa := some ((p.reg rs).extractLsb' 0 1) } := by
  rw [MipsState.jrPending, clear_low_one]

/-! ### BNE, and the words of JR in their releases (spec/30_encoding.md R197) -/

theorem exec_mipsBne (rs rt : BitVec 5) (off : BitVec 16) (s : State) :
    exec (.mipsBne rs rt off) s = mipsTransferDo (fun p => .ok {
      target := if p.reg rs = p.reg rt then p.pc + 8 else p.pc + 4 + (off ++ 0#2).signExtend 32
      isa := none }) s := by
  simp only [← bneTarget_eq]
  rfl

theorem exec_mipsJrPre (rs : BitVec 5) (s : State) :
    exec (.mipsJrPre rs) s = if s.mips.params.release = .r6 then takeException .mipsReserved s
      else mipsTransferDo (fun _ => .ok (s.mips.jrPending rs)) s := rfl

theorem exec_mipsJrR6 (rs : BitVec 5) (s : State) :
    exec (.mipsJrR6 rs) s = if s.mips.params.release = .r6 then mipsTransferDo (fun _ => .ok (s.mips.jrPending rs)) s
      else .refused .mipsJalr := rfl

/-- Settles O52: each word in its releases is the transfer that leaves `pending`, in the other releases none. -/
theorem mipsBranches : Obligations.MipsBranches := by
  unfold Obligations.MipsBranches
  intro s rs rt off i pending p after jump known
  have transfers (hk : known) : exec i s = mipsTransferDo (fun _ => .ok pending) s := by
    have hjump : p.jrPending rs = jump := p.jrPending_eq rs
    obtain hbne | ⟨hr, hpre⟩ | ⟨hr, hr6⟩ := hk
    · obtain ⟨rfl, rfl⟩ := Prod.mk.inj hbne
      exact exec_mipsBne rs rt off s
    · obtain ⟨rfl, rfl⟩ := Prod.mk.inj hpre
      rw [exec_mipsJrPre, if_neg hr, hjump]
    · obtain ⟨rfl, rfl⟩ := Prod.mk.inj hr6
      rw [exec_mipsJrR6, if_pos hr, hjump]
  refine ⟨fun hk hslot => ?outside, fun hk hslot hr => ?reserved, fun hk hslot hr => ?refused, fun hr => ?jrPre,
    fun hr => ?jrR6⟩
  case outside => exact mipsCompletes_transfer (transfers hk) hslot
  case reserved => exact (mipsTransfer_in_slot (transfers hk) hslot).trans (if_pos hr)
  case refused => exact (mipsTransfer_in_slot (transfers hk) hslot).trans (if_neg hr)
  case jrPre => exact (exec_mipsJrPre rs s).trans (if_pos hr)
  case jrR6 => exact (exec_mipsJrR6 rs s).trans (if_neg hr)

end Sys2Proof.Machine
end

section
/-! PROOFS, P6: the word instructions and the compressed ones, rdcycle, and what is not configured
(spec/45_riscv.md R580, R599 to R624, R637 to R640, R652, R655). -/

namespace Sys2Proof.Machine

/-! ### A register written, and the pc past the instruction -/

/-- A value of any width is written cut to XLEN bits, whatever the length of the instruction. -/
theorem RvState.gets_setReg (p : RvState) (rd : BitVec 5) (v : BitVec n) (len : DWord) :
    RvState.Gets rd p ((v.setWidth 64).setWidth p.xlen) ((p.setReg rd v).advance len) := by
  obtain ⟨hreg, hkeeps, hcycle, -⟩ := p.sameCore_refl.sets_setReg rd v
  exact ⟨hreg, hkeeps, fun a => by rw [RvState.advance_mem, RvState.setReg_mem], hcycle, by simp⟩

/-- The pc past an instruction that wrote a register (spec/10_state.md R58). -/
theorem RvState.pc_advance_setReg (p : RvState) (rd : BitVec 5) (v : BitVec n) (len : DWord) :
    ((p.setReg rd v).advance len).pc = p.cut (p.pc + len) := by
  simp [RvState.advance, RvState.cut]

/-- An instruction of any length that writes a value of any width. -/
theorem rvCompletes_rvWrite_cut {present : RvParams → Bool} {len : DWord} {i : Instr} {s : State}
    {body : RvState → Body RvState} {rd : BitVec 5} {v : BitVec n} (hi : exec i s = rvDo present len body s)
    (hp : present s.rv.params = true) (hb : body s.rv = rvWrite rd v s.rv) :
    RvCompletes i s fun q =>
      RvState.Gets rd s.rv ((v.setWidth 64).setWidth s.rv.xlen) q ∧ q.pc = s.rv.cut (s.rv.pc + len) :=
  ⟨_, hi.trans (rvDo_of_ok hp hb), s.rv.gets_setReg rd v len, s.rv.pc_advance_setReg rd v len⟩

/-! ### Word values -/

/-- The low word of a register of 64 bits. -/
theorem RvState.word_eq (p : RvState) (k : BitVec 5) : p.word k = (p.reg 64 k).extractLsb' 0 32 := by
  rw [← BitVec.setWidth_eq_extractLsb' (by decide), RvState.word, RvState.reg, RvState.reg]
  split
  · exact (BitVec.setWidth_zero 32 64).symm
  · rw [BitVec.setWidth_eq]

/-- An arithmetic right shift as a quotient rounded down. -/
theorem sshiftRight_eq_ofInt (v : BitVec w) (k : Nat) : v.sshiftRight k = BitVec.ofInt w (v.toInt / 2 ^ k) := by
  rw [BitVec.sshiftRight_eq, Int.shiftRight_eq_div_pow, Nat.cast_pow, Nat.cast_ofNat]

/-- The remainder of a nonzero divisor has the dividend's sign (spec/45_riscv.md R622). -/
theorem remwValue_eq (a : Word) {b : Word} (hb : b ≠ 0) :
    remwValue a b = BitVec.ofInt 32 (a.toInt.tmod b.toInt) := by
  rw [remwValue, if_neg hb, ← BitVec.toInt_srem, BitVec.ofInt_toInt]

/-- The unsigned remainder of a nonzero divisor (spec/45_riscv.md R623). -/
theorem remuwValue_eq (a : Word) {b : Word} (hb : b ≠ 0) :
    remuwValue a b = BitVec.ofNat 32 (a.toNat % b.toNat) := by
  rw [remuwValue, if_neg hb, ← BitVec.toNat_umod, BitVec.ofNat_toNat, BitVec.setWidth_eq]

/-- The amounts of a word shift are those of a shift on RV32. -/
theorem shamtFitsWord_iff (shamt : BitVec 6) (p : RvState) : shamtFitsWord shamt p = true ↔ shamt.toNat < 32 := by
  have narrow := shamtFits_iff shamt { p with params := { p.params with rv64 := false } }
  rwa [shamtFits, Bool.false_or, or_iff_right Bool.false_ne_true] at narrow

/-- A zero divisor is refused only where the parameter says so (spec/45_riscv.md R624). -/
theorem rvRemainder_of {b : Word} {p : RvState} (h : ¬ (p.params.unsettled = .refuse ∧ b = 0))
    (body : Body RvState) : rvRemainder b p body = body := if_neg h

theorem rvRemainder_of_zero {b : Word} {p : RvState} (hu : p.params.unsettled = .refuse) (hb : b = 0)
    (body : Body RvState) : rvRemainder b p body = .error (.refuses .rvZeroDivisor) := if_pos ⟨hu, hb⟩

theorem rv64M_of {c : RvParams} (h64 : c.rv64 = true) (hM : c.extM = true) : rv64M c = true :=
  (Bool.and_eq_true _ _).mpr ⟨h64, hM⟩

/-! ### The word instructions, each as what it writes -/

section
variable (rd rs1 rs2 : BitVec 5) (imm : BitVec 12) (shamt : BitVec 6) (s : State)

theorem exec_rvAddiw : exec (.rvAddiw rd rs1 imm) s = rvDo rv64Only 4 (fun p =>
    rvWriteWord rd (p.word rs1 + imm.signExtend 32) p) s := rfl

theorem exec_rvAddw : exec (.rvAddw rd rs1 rs2) s = rvDo rv64Only 4 (fun p =>
    rvWriteWord rd (p.word rs1 + p.word rs2) p) s := rfl

theorem exec_rvNegw : exec (.rvNegw rd rs2) s = rvDo rv64Only 4 (fun p =>
    rvWriteWord rd (-(p.word rs2)) p) s := rfl

theorem exec_rvSllw : exec (.rvSllw rd rs1 rs2) s = rvDo rv64Only 4 (fun p =>
    rvWriteWord rd (p.word rs1 <<< ((p.word rs2).toNat % 32)) p) s := rfl

theorem exec_rvSraw : exec (.rvSraw rd rs1 rs2) s = rvDo rv64Only 4 (fun p =>
    rvWriteWord rd ((p.word rs1).sshiftRight ((p.word rs2).toNat % 32)) p) s := rfl

theorem exec_rvSlliw : exec (.rvSlliw rd rs1 shamt) s = rvDo rv64Only 4 (rvShift (shamtFitsWord shamt) fun p =>
    rvWriteWord rd (p.word rs1 <<< shamt.toNat) p) s := rfl

theorem exec_rvSrliw : exec (.rvSrliw rd rs1 shamt) s = rvDo rv64Only 4 (rvShift (shamtFitsWord shamt) fun p =>
    rvWriteWord rd (p.word rs1 >>> shamt.toNat) p) s := rfl

theorem exec_rvRemw : exec (.rvRemw rd rs1 rs2) s = rvDo rv64M 4 (fun p => rvRemainder (p.word rs2) p
    (rvWriteWord rd (remwValue (p.word rs1) (p.word rs2)) p)) s := rfl

theorem exec_rvRemuw : exec (.rvRemuw rd rs1 rs2) s = rvDo rv64M 4 (fun p => rvRemainder (p.word rs2) p
    (rvWriteWord rd (remuwValue (p.word rs1) (p.word rs2)) p)) s := rfl

end

/-- Settles O55: each instruction writes one word, sign-extended; shift amounts and divisors are looked at first. -/
theorem rvWords : Obligations.RvWords := by
  unfold Obligations.RvWords
  intro s rd rs1 rs2 imm shamt p a b gives h64
  have ha : p.word rs1 = a := p.word_eq rs1
  have hb : p.word rs2 = b := p.word_eq rs2
  have writes {present : RvParams → Bool} {i : Instr} {body : RvState → Body RvState} {v w : Word}
      (hp : present p.params = true) (hi : exec i s = rvDo present 4 body s) (hbody : body p = rvWriteWord rd v p)
      (hv : v = w) : gives i w := by
    have written := rvCompletes_rvWrite_cut hi hp hbody
    rwa [BitVec.setWidth_eq, hv] at written
  have slliw := exec_rvSlliw rd rs1 shamt s
  have srliw := exec_rvSrliw rd rs1 shamt s
  have remw := exec_rvRemw rd rs1 rs2 s
  have remuw := exec_rvRemuw rd rs1 rs2 s
  refine ⟨?addiw, ?addw, ?negw, ?sllw, ?sraw, fun hsmall => ?legal, fun hlarge => ?illegal, fun hM hb0 => ?remainder,
    fun hM hb0 hu => ?zeroRefused, fun hM hb0 hu => ?zeroCompleted⟩
  case addiw => exact writes h64 (exec_rvAddiw rd rs1 imm s) rfl (by rw [ha])
  case addw => exact writes h64 (exec_rvAddw rd rs1 rs2 s) rfl (by rw [ha, hb])
  case negw => exact writes h64 (exec_rvNegw rd rs2 s) rfl (by rw [hb]; exact (BitVec.zero_sub b).symm)
  case sllw => exact writes h64 (exec_rvSllw rd rs1 rs2 s) rfl (by rw [ha, hb, shiftLeft_eq_ofNat])
  case sraw => exact writes h64 (exec_rvSraw rd rs1 rs2 s) rfl (by rw [ha, hb, sshiftRight_eq_ofInt])
  case legal =>
    have fits := (shamtFitsWord_iff shamt p).2 hsmall
    exact ⟨writes h64 slliw (if_pos fits) (by rw [ha, shiftLeft_eq_ofNat]),
      writes h64 srliw (if_pos fits) (by rw [ha, ushiftRight_eq_ofNat])⟩
  case illegal =>
    have unfit : ¬ shamtFitsWord shamt p = true := by
      rw [shamtFitsWord_iff]
      exact Nat.not_lt.2 hlarge
    exact ⟨slliw.trans (rvDo_of_raises h64 (if_neg unfit)), srliw.trans (rvDo_of_raises h64 (if_neg unfit))⟩
  case remainder =>
    have settled : ¬ (p.params.unsettled = .refuse ∧ p.word rs2 = 0) := fun h => hb0 (hb.symm.trans h.2)
    exact ⟨writes (rv64M_of h64 hM) remw (rvRemainder_of settled _) (by rw [ha, hb, remwValue_eq a hb0]),
      writes (rv64M_of h64 hM) remuw (rvRemainder_of settled _) (by rw [ha, hb, remuwValue_eq a hb0])⟩
  case zeroRefused =>
    exact ⟨remw.trans (rvDo_of_refuses (rv64M_of h64 hM) (rvRemainder_of_zero hu (hb.trans hb0) _)),
      remuw.trans (rvDo_of_refuses (rv64M_of h64 hM) (rvRemainder_of_zero hu (hb.trans hb0) _))⟩
  case zeroCompleted =>
    have settled : ¬ (p.params.unsettled = .refuse ∧ p.word rs2 = 0) := by
      rw [hu]
      exact fun h => nomatch h.1
    exact ⟨⟨_, writes (rv64M_of h64 hM) remw (rvRemainder_of settled _) rfl⟩,
      ⟨_, writes (rv64M_of h64 hM) remuw (rvRemainder_of settled _) rfl⟩⟩

/-! ### Compressed immediates -/

/-- Sign-extending in two steps. -/
theorem signExtend_signExtend_of_le (v : BitVec m) {k : Nat} (n : Nat) (h : m ≤ k) :
    (v.signExtend k).signExtend n = v.signExtend n :=
  congrArg (BitVec.ofInt n) (BitVec.toInt_signExtend_of_le h)

/-- imm[9:4] of c.addi16sp (spec/45_riscv.md R639). -/
theorem addi16spImm_eq (imm : BitVec 6) (n : Nat) :
    (imm.signExtend 12 <<< 4).signExtend n = (imm ++ 0#4).signExtend n := by
  rw [← signExtend_append_zero imm 4 12 (by decide), signExtend_signExtend_of_le _ n (by decide)]

/-- uimm[9:2] of c.addi4spn is never negative (spec/45_riscv.md R640). -/
theorem addi4spnImm_eq (uimm : BitVec 8) (n : Nat) :
    (uimm.setWidth 12 <<< 2).signExtend n = BitVec.ofNat n (4 * uimm.toNat) := by
  have small : uimm.toNat < 2 ^ 8 := uimm.isLt
  have value : (uimm.setWidth 12 <<< 2).toNat = 4 * uimm.toNat := by
    rw [BitVec.toNat_shiftLeft, BitVec.toNat_setWidth, Nat.shiftLeft_eq]
    omega
  have positive : (uimm.setWidth 12 <<< 2).msb = false := by
    rw [BitVec.msb_eq_false_iff_two_mul_lt, value]
    omega
  rw [BitVec.signExtend_eq_setWidth_of_msb_false positive, ← BitVec.ofNat_toNat, value]

/-! ### What is not configured -/

section
variable {present : RvParams → Bool} {i : Instr} {s : State} {body : RvState → Body RvState}

/-- An instruction of an XLEN or extension that is not configured (spec/45_riscv.md R580; notes/assumptions/33.md). -/
theorem rvDo_of_absent {len : DWord} (hi : exec i s = rvDo present len body s)
    (hp : present s.rv.params = false) : exec i s = .refused .rvNotConfigured :=
  hi.trans (if_neg (Bool.eq_false_iff.1 hp))

theorem rvJumpDo_of_absent (hi : exec i s = rvJumpDo present body s) (hp : present s.rv.params = false) :
    exec i s = .refused .rvNotConfigured :=
  hi.trans (if_neg (Bool.eq_false_iff.1 hp))

end

theorem rv64M_eq_false {c : RvParams} (h : c.rv64 = false ∨ c.extM = false) : rv64M c = false :=
  (Bool.and_eq_false_iff).2 h

theorem rv64A_eq_false {c : RvParams} (h : c.rv64 = false ∨ c.extA = false) : rv64A c = false :=
  (Bool.and_eq_false_iff).2 h

theorem exec_rvRdcycle (rd : BitVec 5) (s : State) :
    exec (.rvRdcycle rd) s = rvDo rvBase 4 (fun p => rvWrite rd (p.draw p.xlen).1
      { (p.draw p.xlen).2 with cycle := (p.draw p.xlen).1.setWidth 64 }) s := rfl

/-- Settles O59: a compressed instruction is its expansion with an immediate read wider; rdcycle writes what was
drawn. -/
theorem rvCompressed : Obligations.RvCompressed := by
  unfold Obligations.RvCompressed
  intro s rd rs1 rs2 rd3 i6 u8 o sh aq rl i p gives
  refine ⟨fun hC => ?compressed, ?rdcycle, ?absent⟩
  case compressed =>
    have writes {i : Instr} {body : RvState → Body RvState} {rd : BitVec 5} {v w : BitVec p.xlen}
        (hi : exec i s = rvDo rvC 2 body s) (hb : body p = rvWrite rd v p) (hv : v = w) : gives i rd w := by
      have written := rvCompletes_rvWrite_cut hi hC hb
      rwa [setWidth_64_setWidth v (by rcases p.xlen_cases with h | h <;> omega), hv] at written
    have sum (rs : BitVec 5) {imm : BitVec 12} {z : BitVec p.xlen} (hz : imm.signExtend p.xlen = z) :
        rvSum p.xlen (p.reg p.xlen rs) (imm.signExtend p.xlen) = p.reg p.xlen rs + z := congrArg _ hz
    exact ⟨writes (body := rvReg3 rvSum rd rd rs2) rfl rfl rfl,
      writes (body := rvRegImm rvSum rd rd _) rfl rfl (sum rd (signExtend_signExtend_of_le i6 _ (by decide))),
      writes (body := rvRegImm rvSum 2 2 _) rfl rfl (sum 2 (addi16spImm_eq i6 _)),
      writes (body := rvRegImm rvSum _ 2 _) rfl rfl (sum 2 (addi4spnImm_eq u8 _))⟩
  case rdcycle =>
    have drawn := RvState.gets_advance_setReg
      { (p.draw p.xlen).2 with cycle := (p.draw p.xlen).1.setWidth 64 } rd (p.draw p.xlen).1
    obtain ⟨hreg, hkeeps, hmem, -, hreservation⟩ := drawn
    exact ⟨_, (exec_rvRdcycle rd s).trans (rvDo_of_ok rfl rfl), ⟨_, hreg⟩, hkeeps, hmem, hreservation,
      RvState.pc_advance_setReg _ rd _ 4⟩
  case absent =>
    have need64 {i : Instr} {len : DWord} {body : RvState → Body RvState} (h : p.params.rv64 = false)
        (hi : exec i s = rvDo rv64Only len body s) : exec i s = .refused .rvNotConfigured := rvDo_of_absent hi h
    have needM {i : Instr} {len : DWord} {body : RvState → Body RvState}
        (h : p.params.rv64 = false ∨ p.params.extM = false) (hi : exec i s = rvDo rv64M len body s) :
        exec i s = .refused .rvNotConfigured := rvDo_of_absent hi (rv64M_eq_false h)
    have needA {i : Instr} {len : DWord} {body : RvState → Body RvState}
        (h : p.params.rv64 = false ∨ p.params.extA = false) (hi : exec i s = rvDo rv64A len body s) :
        exec i s = .refused .rvNotConfigured := rvDo_of_absent hi (rv64A_eq_false h)
    have needC {i : Instr} {len : DWord} {body : RvState → Body RvState} (h : p.params.extC = false)
        (hi : exec i s = rvDo rvC len body s) : exec i s = .refused .rvNotConfigured := rvDo_of_absent hi h
    simp only [List.mem_cons, List.not_mem_nil, or_false]
    rintro (⟨h64, hi⟩ | ⟨hM, hi⟩ | ⟨hA, hi⟩ | ⟨hC, hi⟩ | ⟨hmachine, rfl⟩ | ⟨hsupervisor, rfl⟩)
    · rcases hi with rfl | rfl | rfl | rfl | rfl | rfl | rfl | rfl | rfl | rfl | rfl | rfl | rfl | rfl
      exacts [need64 h64 rfl, need64 h64 rfl, need64 h64 (exec_rvAddiw rd rs1 o s),
        need64 h64 (exec_rvSlliw rd rs1 sh s), need64 h64 (exec_rvSrliw rd rs1 sh s),
        need64 h64 (exec_rvAddw rd rs1 rs2 s), need64 h64 (exec_rvSllw rd rs1 rs2 s),
        need64 h64 (exec_rvSraw rd rs1 rs2 s), need64 h64 (exec_rvNegw rd rs2 s),
        needM (.inl h64) (exec_rvRemw rd rs1 rs2 s), needM (.inl h64) (exec_rvRemuw rd rs1 rs2 s),
        needA (.inl h64) rfl, needA (.inl h64) rfl, needA (.inl h64) rfl]
    · rcases hi with rfl | rfl
      exacts [needM (.inr hM) (exec_rvRemw rd rs1 rs2 s), needM (.inr hM) (exec_rvRemuw rd rs1 rs2 s)]
    · rcases hi with rfl | rfl | rfl | rfl
      exacts [rvDo_of_absent (present := rvA) rfl hA, needA (.inr hA) rfl, needA (.inr hA) rfl, needA (.inr hA) rfl]
    · rcases hi with rfl | rfl | rfl | rfl
      exacts [needC hC rfl, needC hC rfl, needC hC rfl, needC hC rfl]
    · exact rvJumpDo_of_absent (present := rvPrivM) rfl hmachine
    · exact rvJumpDo_of_absent (present := rvPrivS) rfl hsupervisor

end Sys2Proof.Machine
end

section
/-! PROOFS, P6: control transfers and the returns from exception (spec/45_riscv.md R627, R628, R643 to R645, R650,
R656). -/

namespace Sys2Proof.Machine

/-! ### bne, bnez, ret -/

/-- The pc is `pc`, and nothing else changed. -/
def RvState.GoesTo (pc : DWord) (p q : RvState) : Prop :=
  q.pc = pc ∧ RvState.Keeps [] p q ∧ Memory.Same p.mem q.mem ∧ q.cycle = p.cycle ∧ q.reservation = p.reservation

theorem RvState.goesTo_pc (p : RvState) (pc : DWord) : RvState.GoesTo pc p { p with pc := pc } :=
  ⟨rfl, ⟨fun _ _ => rfl, p.sameCore_refl.csrs, rfl⟩, fun _ => rfl, rfl, rfl⟩

/-- What is cut to XLEN bits has no more than those. -/
theorem RvState.cut_setWidth_xlen (p : RvState) (v : BitVec p.xlen) : p.cut (v.setWidth 64) = v.setWidth 64 := by
  by_cases h : p.params.rv64 = true
  · exact if_pos h
  · have width : p.xlen = 32 := if_neg h
    have small : v.toNat < 2 ^ 32 := Nat.lt_of_lt_of_eq v.isLt (by rw [width])
    rw [RvState.cut, if_neg h]
    apply BitVec.eq_of_toNat_eq
    simp only [BitVec.toNat_setWidth]
    omega

theorem RvState.jump_of_ok {p : RvState} {v : DWord} (h : p.targetOk v = true) :
    p.jump v = .ok { p with pc := p.cut v } := if_pos h

theorem RvState.jump_of_misaligned {p : RvState} {v : DWord} (h : p.targetOk v = false) :
    p.jump v = .error (.refuses .rvMisalignedTarget) := if_neg (Bool.eq_false_iff.1 h)

section
variable {present : RvParams → Bool} {i : Instr} {s : State} {body : RvState → Body RvState}
  (hi : exec i s = rvJumpDo present body s) (hp : present s.rv.params = true)
include hi hp

theorem rvJumpDo_completes {q : RvState} {P : RvState → Prop} (hb : body s.rv = .ok q) (hq : P q) :
    RvCompletes i s P :=
  ⟨q, hi.trans (rvJumpDo_of_ok hp hb), hq⟩

theorem rvJumpDo_of_refuses {r : Refusal} (hb : body s.rv = .error (.refuses r)) : exec i s = .refused r := by
  rw [hi, rvJumpDo, if_pos hp, hb]
  rfl

/-- A jump to a target of XLEN bits: there, or refused (spec/45_riscv.md R628, D25). -/
theorem rvJump_outcomes {v : DWord} (hb : body s.rv = s.rv.jump v) (hv : s.rv.cut v = v) :
    (s.rv.targetOk v = true → RvCompletes i s (RvState.GoesTo v s.rv)) ∧
    (s.rv.targetOk v = false → exec i s = .refused .rvMisalignedTarget) := by
  constructor
  · intro ok
    rw [RvState.jump_of_ok ok, hv] at hb
    exact rvJumpDo_completes hi hp hb (s.rv.goesTo_pc v)
  · intro misaligned
    exact rvJumpDo_of_refuses hi hp (hb.trans (RvState.jump_of_misaligned misaligned))

end

/-- bne, whatever register it compares with: on to the next instruction, or a jump (spec/45_riscv.md R627). -/
theorem rvBne_outcomes {i : Instr} {s : State} {rs1 rs2 : BitVec 5} {off : BitVec 12}
    (hi : exec i s = rvJumpDo rvBase (rvBneBody rs1 rs2 off) s) :
    (¬ s.rv.reg s.rv.xlen rs1 ≠ s.rv.reg s.rv.xlen rs2 →
      RvCompletes i s (RvState.GoesTo (s.rv.cut (s.rv.pc + 4)) s.rv)) ∧
    (s.rv.reg s.rv.xlen rs1 ≠ s.rv.reg s.rv.xlen rs2 →
      (s.rv.targetOk (s.rv.cut (s.rv.pc + (off ++ 0#1).signExtend 64)) = true →
        RvCompletes i s (RvState.GoesTo (s.rv.cut (s.rv.pc + (off ++ 0#1).signExtend 64)) s.rv)) ∧
      (s.rv.targetOk (s.rv.cut (s.rv.pc + (off ++ 0#1).signExtend 64)) = false →
        exec i s = .refused .rvMisalignedTarget)) := by
  constructor
  · intro same
    exact rvJumpDo_completes hi rfl (if_neg same) (s.rv.goesTo_pc _)
  · intro differ
    have offset : rvBranchOffset off = (off ++ 0#1).signExtend 64 := (signExtend_append_zero off 1 64 (by decide)).symm
    rw [← offset]
    exact rvJump_outcomes hi rfl (if_pos differ) (s.rv.cut_cut _)

/-- Settles O57: bnez compares with x[0], and ret jumps to a register, which has XLEN bits. -/
theorem rvControl : Obligations.RvControl := by
  unfold Obligations.RvControl
  intro s rs1 rs2 off i differ p target back goes
  refine ⟨fun h => ?branch, ?ret⟩
  case branch =>
    have outcomes : (¬ differ → RvCompletes i s (goes (p.cut (p.pc + 4)))) ∧
        (differ → (p.targetOk target = true → RvCompletes i s (goes target)) ∧
          (p.targetOk target = false → exec i s = .refused .rvMisalignedTarget)) := by
      simp only [List.mem_cons, Prod.mk.injEq, List.not_mem_nil, or_false] at h
      obtain ⟨rfl, rfl⟩ | ⟨rfl, rfl⟩ := h
      · exact rvBne_outcomes (rs2 := rs2) rfl
      · exact rvBne_outcomes (rs2 := 0) rfl
    obtain ⟨untaken, taken⟩ := outcomes
    exact ⟨untaken, fun hd => (taken hd).1, fun hd => (taken hd).2⟩
  case ret =>
    obtain ⟨returned, refused⟩ := rvJump_outcomes (i := .rvRet) (present := rvBase) (v := back)
      (body := fun q => q.jump ((q.reg q.xlen 1).setWidth 64)) rfl rfl rfl (p.cut_setWidth_xlen _)
    exact ⟨returned, refused, fun v => p.targetOk_iff v⟩

/-! ### mret, sret -/

/-- The values of MPP that name a supported mode (spec/10_state.md R59; notes/assumptions/47.md). -/
theorem RvState.modeOf_eq_some {p : RvState} {mpp : BitVec 2} {mode : RvPriv}
    (h : (mpp, mode) = (3#2, .machine) ∨ p.params.privS = true ∧ (mpp, mode) = (1#2, .supervisor) ∨
      p.params.userMode = true ∧ (mpp, mode) = (0#2, .user)) : p.modeOf mpp = some mode := by
  simp only [Prod.mk.injEq] at h
  obtain ⟨rfl, rfl⟩ | ⟨hS, rfl, rfl⟩ | ⟨hU, rfl, rfl⟩ := h
  · rfl
  · exact if_pos hS
  · exact if_pos hU

/-- The values of MPP that name none (spec/45_riscv.md R643). -/
theorem RvState.modeOf_eq_none {p : RvState} {mpp : BitVec 2}
    (h : mpp = 2 ∨ p.params.privS = false ∧ mpp = 1 ∨ p.params.userMode = false ∧ mpp = 0) :
    p.modeOf mpp = none := by
  obtain rfl | ⟨hS, rfl⟩ | ⟨hU, rfl⟩ := h
  · rfl
  · exact if_neg (Bool.eq_false_iff.1 hS)
  · exact if_neg (Bool.eq_false_iff.1 hU)

section
variable {p : RvState} (hm : p.priv = .machine)
include hm

/-- mret in machine mode, where MPP names a mode: the jump to mepc decides (spec/45_riscv.md R643). -/
theorem rvReturnMachine_of_mode {mode : RvPriv} (hmode : p.modeOf p.mpp = some mode) :
    rvReturnMachine p = (p.jump p.mepc).map fun q =>
      { q with priv := mode, mie := p.mpie, mpie := true, mpp := if p.params.userMode then 0#2 else p.mpp } := by
  rw [rvReturnMachine, if_neg (not_not.2 hm), hmode]
  cases p.jump p.mepc <;> rfl

theorem rvReturnMachine_of_no_mode (hmode : p.modeOf p.mpp = none) :
    rvReturnMachine p = .error (.refuses .rvBadMpp) := by
  rw [rvReturnMachine, if_neg (not_not.2 hm), hmode]

end

/-- sret outside user mode: the jump to sepc decides (spec/45_riscv.md R644). -/
theorem rvReturnSupervisor_of_priv {p : RvState} (hs : p.priv ≠ .user) :
    rvReturnSupervisor p = (p.jump p.sepc).map fun q =>
      { q with priv := if p.spp = 1#1 then .supervisor else .user, sie := p.spie, spie := true, spp := 0#1 } := by
  rw [rvReturnSupervisor, if_neg hs]
  cases p.jump p.sepc <;> rfl

/-- Settles O60: the mode and MPP are looked at first, then the target. -/
theorem rvReturns : Obligations.RvReturns := by
  unfold Obligations.RvReturns
  intro s mode p rest
  have mret : exec .rvMret s = rvJumpDo rvPrivM rvReturnMachine s := rfl
  have sret : exec .rvSret s = rvJumpDo rvPrivS rvReturnSupervisor s := rfl
  refine ⟨fun hM hm hmode => ?mret, fun hS hs => ?sret, fun hM hm => ?mretMode, fun hS hs => ?sretMode,
    fun hM hm hmode => ?badMpp⟩
  case mret =>
    have returns := rvReturnMachine_of_mode hm (RvState.modeOf_eq_some hmode)
    refine ⟨fun target => ?_, fun target => ?_⟩
    · rw [RvState.jump_of_ok target] at returns
      exact rvJumpDo_completes mret hM returns
        ⟨rfl, rfl, rfl, rfl, rfl, rfl, rfl, rfl, rfl, rfl, fun _ => rfl, fun _ => rfl, rfl, rfl, rfl⟩
    · rw [RvState.jump_of_misaligned target] at returns
      exact rvJumpDo_of_refuses mret hM returns
  case sret =>
    have returns := rvReturnSupervisor_of_priv hs
    refine ⟨fun target => ?_, fun target => ?_⟩
    · rw [RvState.jump_of_ok target] at returns
      exact rvJumpDo_completes sret hS returns
        ⟨rfl, rfl, rfl, rfl, rfl, rfl, rfl, rfl, rfl, rfl, fun _ => rfl, fun _ => rfl, rfl, rfl, rfl⟩
    · rw [RvState.jump_of_misaligned target] at returns
      exact rvJumpDo_of_refuses sret hS returns
  case mretMode => exact rvJumpDo_of_refuses mret hM (if_pos hm)
  case sretMode => exact rvJumpDo_of_refuses sret hS (if_pos hs)
  case badMpp => exact rvJumpDo_of_refuses mret hM (rvReturnMachine_of_no_mode hm (RvState.modeOf_eq_none hmode))

end Sys2Proof.Machine
end

section
/-! PROOFS, exceptions (spec/60_exceptions.md R681, R682; spec/41_arm.md R352): where an instruction raises one, the
state is the one before it. A body computes what it would write and drops it when it stops, so one thing has to be
shown of each: that it stops in no way that carries a state. LDR's Data Abort is the one that does. -/

namespace Sys2Proof.Machine

/-! ### Stops that keep the state -/

/-- Any exception but P2's Data Abort. -/
def Exception.NoAbort (e : Exception) : Prop := ∀ a, e ≠ .armDataAbort a

/-- A refusal, or an exception that leaves the part as it was before the instruction. -/
def Stop.Keeps : Stop σ → Prop
  | .raises e => e.NoAbort
  | .raisesLeaving _ _ => False
  | .refuses _ => True

/-- Where `b` stops, the state is the one before the instruction. -/
def StopsKeeping (b : Except (Stop σ) α) : Prop := ∀ e, b = .error e → e.Keeps

theorem stopsKeeping_ok {v : α} : StopsKeeping (.ok v : Except (Stop σ) α) := fun _ h => nomatch h

theorem stopsKeeping_error {e : Stop σ} (h : e.Keeps) : StopsKeeping (.error e : Except (Stop σ) α) :=
  fun _ he => by cases he; exact h

theorem stopsKeeping_raises {e : Exception} (h : e.NoAbort) :
    StopsKeeping (.error (.raises e) : Except (Stop σ) α) :=
  stopsKeeping_error h

theorem stopsKeeping_refuses {r : Refusal} : StopsKeeping (.error (.refuses r) : Except (Stop σ) α) :=
  stopsKeeping_error trivial

theorem stopsKeeping_ite {c : Prop} [Decidable c] {b d : Except (Stop σ) α} (hb : StopsKeeping b)
    (hd : StopsKeeping d) : StopsKeeping (if c then b else d) := by
  split
  · exact hb
  · exact hd

/-- An operation that stops stops the instruction. -/
theorem StopsKeeping.rethrown {b : Except (Stop σ) α} {e : Stop σ} (hb : StopsKeeping b) (h : b = .error e) :
    StopsKeeping (.error e : Except (Stop σ) β) :=
  stopsKeeping_error (hb e h)

/-! ### Faults that keep the state -/

/-- Where `r` is a fault, it is an exception other than a Data Abort, and carries `s` without the prefixes of the
instruction in hand. -/
def FaultsKeeping (s : State) (r : Result) : Prop :=
  ∀ f, r = .fault f → ∃ e : Exception, e.NoAbort ∧ f = .raised e (s.withPfx .none)

theorem faultsKeeping_next {s t : State} : FaultsKeeping s (.next t) := fun _ h => nomatch h

theorem faultsKeeping_refused {s : State} {r : Refusal} : FaultsKeeping s (.refused r) := fun _ h => nomatch h

theorem faultsKeeping_takeException {s : State} {e : Exception} (h : e.NoAbort) :
    FaultsKeeping s (takeException e s) := fun _ hf => by
  cases hf
  exact ⟨e, h, rfl⟩

theorem faultsKeeping_ite {s : State} {c : Prop} [Decidable c] {r t : Result} (hr : FaultsKeeping s r)
    (ht : FaultsKeeping s t) : FaultsKeeping s (if c then r else t) := by
  split
  · exact hr
  · exact ht

theorem faultsKeeping_finish {s : State} {put : σ → State} {b : Body σ} (hb : StopsKeeping b) :
    FaultsKeeping s (finish s put b) := by
  cases b with
  | ok q => exact faultsKeeping_next
  | error e =>
    have keeps := hb e rfl
    cases e with
    | raises e => exact faultsKeeping_takeException keeps
    | raisesLeaving e t => exact keeps.elim
    | refuses r => exact faultsKeeping_refused

/-! ### P1: the operations -/

theorem noAbort_x86 (e : X86Exc) : Exception.NoAbort (.x86 e) := fun _ h => nomatch h

section
variable (x : X86State)

theorem X86State.stopsKeeping_atOpSize {body : Nat → Body X86State} (h : ∀ w, StopsKeeping (body w)) :
    StopsKeeping (x.atOpSize body) :=
  stopsKeeping_ite (h 32) (h 16)

theorem X86State.stopsKeeping_readSeg (w : Nat) (g : X86Sreg) (off : Word) (kind : X86Access) :
    StopsKeeping (x.readSeg w g off kind) := by
  unfold X86State.readSeg
  cases x.xseg g off (w / 8) kind with
  | error e => exact stopsKeeping_raises (noAbort_x86 e)
  | ok a => exact stopsKeeping_ok

theorem X86State.stopsKeeping_writeSeg (g : X86Sreg) (off : Word) (kind : X86Access) (v : BitVec w) :
    StopsKeeping (x.writeSeg g off kind v) := by
  unfold X86State.writeSeg
  cases x.xseg g off (w / 8) kind with
  | error e => exact stopsKeeping_raises (noAbort_x86 e)
  | ok a => exact stopsKeeping_ok

theorem X86State.stopsKeeping_readRM (w : Nat) (rm : X86RM) : StopsKeeping (x.readRM w rm) := by
  cases rm with
  | reg n => exact stopsKeeping_ok
  | mem m => exact x.stopsKeeping_readSeg w _ _ _

theorem X86State.stopsKeeping_writeRM (rm : X86RM) (v : BitVec w) : StopsKeeping (x.writeRM rm v) := by
  cases rm with
  | reg n => exact stopsKeeping_ok
  | mem m => exact x.stopsKeeping_writeSeg _ _ _ v

theorem X86State.stopsKeeping_checkWriteRM (w : Nat) (rm : X86RM) : StopsKeeping (x.checkWriteRM w rm) := by
  cases rm with
  | reg n => exact stopsKeeping_ok
  | mem m =>
    unfold X86State.checkWriteRM
    dsimp only
    cases x.xseg (x.segOf m) (x.ea m) (w / 8) .write with
    | error e => exact stopsKeeping_raises (noAbort_x86 e)
    | ok a => exact stopsKeeping_ok

theorem X86State.stopsKeeping_push (v : BitVec w) : StopsKeeping (x.push v) := by
  refine stopsKeeping_ite stopsKeeping_refuses ?_
  cases h : x.writeSeg .ss (x.spPlus (-(BitVec.ofNat 32 (w / 8)))) .stackWrite v with
  | error e => exact (x.stopsKeeping_writeSeg _ _ _ v).rethrown h
  | ok y => exact stopsKeeping_ok

theorem X86State.stopsKeeping_pop (w : Nat) : StopsKeeping (x.pop w) := by
  refine stopsKeeping_ite stopsKeeping_refuses ?_
  cases h : x.readSeg w .ss x.sp .stackRead with
  | error e => exact (x.stopsKeeping_readSeg w _ _ _).rethrown h
  | ok v => exact stopsKeeping_ok

theorem X86State.stopsKeeping_guardPush {b : Body X86State} (h : StopsKeeping b) : StopsKeeping (x.guardPush b) :=
  stopsKeeping_ite stopsKeeping_ok h

theorem X86State.stopsKeeping_jumpNear (target : Word) : StopsKeeping (x.jumpNear target) :=
  stopsKeeping_ite (stopsKeeping_raises (noAbort_x86 _)) stopsKeeping_ok

theorem X86State.stopsKeeping_loadSeg (g : X86Sreg) (sel : Half) : StopsKeeping (x.loadSeg g sel) := by
  unfold X86State.loadSeg
  refine stopsKeeping_ite (stopsKeeping_ite stopsKeeping_ok (stopsKeeping_raises (noAbort_x86 _))) ?_
  cases (x.segLoad g sel).1 with
  | raises e => exact stopsKeeping_raises (noAbort_x86 e)
  | loaded d => exact stopsKeeping_ok

/-! ### P1: the bodies -/

variable {w : Nat}

theorem stopsKeeping_aluToRM (op : AluOp) (rm : X86RM) (src : BitVec w) : StopsKeeping (aluToRM op w rm src x) := by
  unfold aluToRM
  cases h : x.readRM w rm with
  | error e => exact (x.stopsKeeping_readRM w rm).rethrown h
  | ok d => exact X86State.stopsKeeping_writeRM _ rm _

theorem stopsKeeping_aluToReg (op : AluOp) (r : BitVec 3) (rm : X86RM) : StopsKeeping (aluToReg op w r rm x) := by
  unfold aluToReg
  cases h : x.readRM w rm with
  | error e => exact (x.stopsKeeping_readRM w rm).rethrown h
  | ok v => exact stopsKeeping_ok

theorem stopsKeeping_movToReg (r : BitVec 3) (rm : X86RM) : StopsKeeping (movToReg w r rm x) := by
  unfold movToReg
  cases h : x.readRM w rm with
  | error e => exact (x.stopsKeeping_readRM w rm).rethrown h
  | ok v => exact stopsKeeping_ok

theorem stopsKeeping_movFromMoffs (off : BitVec 32) : StopsKeeping (movFromMoffs w off x) := by
  unfold movFromMoffs
  cases h : x.readSeg w x.moffsSeg (x.moffs off) .read with
  | error e => exact (x.stopsKeeping_readSeg w _ _ _).rethrown h
  | ok v => exact stopsKeeping_ok

theorem stopsKeeping_movSelector (rm : X86RM) (sel : Half) : StopsKeeping (movSelector rm sel x) := by
  cases rm with
  | mem m => exact x.stopsKeeping_writeRM (.mem m) sel
  | reg n => exact stopsKeeping_ite stopsKeeping_ok stopsKeeping_ok

theorem stopsKeeping_shrdBody (rm : X86RM) (src : BitVec w) (count : Nat) :
    StopsKeeping (shrdBody w rm src count x) := by
  unfold shrdBody
  cases h : x.readRM w rm with
  | error e => exact (x.stopsKeeping_readRM w rm).rethrown h
  | ok d =>
    exact stopsKeeping_ite (x.stopsKeeping_checkWriteRM w rm)
      (stopsKeeping_ite (X86State.stopsKeeping_writeRM _ rm _) (X86State.stopsKeeping_writeRM _ rm _))

theorem stopsKeeping_xchgBody (rm : X86RM) (r : BitVec 3) : StopsKeeping (xchgBody w rm r x) := by
  unfold xchgBody
  cases h : x.readRM w rm with
  | error e => exact (x.stopsKeeping_readRM w rm).rethrown h
  | ok t =>
    dsimp only
    cases h : x.writeRM rm (x.readReg w r) with
    | error e => exact (x.stopsKeeping_writeRM rm _).rethrown h
    | ok y => exact stopsKeeping_ok

theorem stopsKeeping_pushSelector (g : X86Sreg) : StopsKeeping (pushSelector g x) :=
  x.stopsKeeping_guardPush (stopsKeeping_ite (X86State.stopsKeeping_push _ _) (x.stopsKeeping_push _))

theorem stopsKeeping_popToMem (m : X86Mem) : StopsKeeping (popToMem w m x) := by
  unfold popToMem
  cases h : x.pop w with
  | error e => exact (x.stopsKeeping_pop w).rethrown h
  | ok r =>
    exact stopsKeeping_ite (X86State.stopsKeeping_writeSeg _ _ _ _ _) (X86State.stopsKeeping_writeSeg _ _ _ _ _)

theorem stopsKeeping_popSelector (g : X86Sreg) : StopsKeeping (popSelector g x) := by
  refine x.stopsKeeping_atOpSize fun w => ?_
  cases h : x.pop w with
  | error e => exact (x.stopsKeeping_pop w).rethrown h
  | ok r => exact X86State.stopsKeeping_loadSeg _ g _

theorem stopsKeeping_loopBody (rel : BitVec 8) (cond : Bool) : StopsKeeping (loopBody rel cond x) :=
  stopsKeeping_ite (X86State.stopsKeeping_jumpNear _ _) stopsKeeping_ok

theorem stopsKeeping_retBody (extra : Word) : StopsKeeping (retBody extra x) := by
  refine x.stopsKeeping_atOpSize fun w =>
    stopsKeeping_ite stopsKeeping_refuses (stopsKeeping_ite (stopsKeeping_raises (noAbort_x86 _)) ?_)
  cases h : x.pop w with
  | error e => exact (x.stopsKeeping_pop w).rethrown h
  | ok r =>
    dsimp only
    cases h : r.2.jumpNear (r.1.setWidth 32) with
    | error e => exact (r.2.stopsKeeping_jumpNear _).rethrown h
    | ok z => exact stopsKeeping_ok

end

/-! ### P1: the instructions -/

theorem x86Do_faultsKeeping {i : Instr} {body : X86State → Body X86State} {s : State}
    (h : ∀ x, StopsKeeping (body x)) : FaultsKeeping s (x86Do i body s) :=
  faultsKeeping_finish (h (s.x86.entered i))

/-- A form of width `OperandSize`. -/
theorem x86DoSized_faultsKeeping {i : Instr} {body : X86State → Nat → Body X86State} {s : State}
    (h : ∀ x w, StopsKeeping (body x w)) : FaultsKeeping s (x86Do i (fun x => x.atOpSize (body x)) s) :=
  x86Do_faultsKeeping fun x => x.stopsKeeping_atOpSize (h x)

theorem execX86PushRm_faultsKeeping (rm : X86RM) (s : State) : FaultsKeeping s (execX86PushRm rm s) := by
  refine x86Do_faultsKeeping fun x => x.stopsKeeping_guardPush (x.stopsKeeping_atOpSize fun w => ?_)
  cases h : x.readRM w rm with
  | error e => exact (x.stopsKeeping_readRM w rm).rethrown h
  | ok v => exact x.stopsKeeping_push v

theorem execX86PopReg_faultsKeeping (r : BitVec 3) (s : State) : FaultsKeeping s (execX86PopReg r s) := by
  refine x86DoSized_faultsKeeping fun x w => ?_
  cases h : x.pop w with
  | error e => exact (x.stopsKeeping_pop w).rethrown h
  | ok y => exact stopsKeeping_ok

theorem execX86PopSs_faultsKeeping (s : State) : FaultsKeeping s (execX86PopSs s) := by
  refine x86Do_faultsKeeping fun x => ?_
  cases h : popSelector .ss x with
  | error e => exact (stopsKeeping_popSelector x .ss).rethrown h
  | ok y => exact stopsKeeping_ok

theorem execX86MovRmSreg_faultsKeeping (rm : X86RM) (sr : BitVec 3) (s : State) :
    FaultsKeeping s (execX86MovRmSreg rm sr s) := by
  refine x86Do_faultsKeeping fun x => ?_
  cases sregOf sr with
  | none => exact stopsKeeping_raises (noAbort_x86 _)
  | some g => exact stopsKeeping_movSelector x rm _

theorem execX86MovSregRm_faultsKeeping (sr : BitVec 3) (rm : X86RM) (s : State) :
    FaultsKeeping s (execX86MovSregRm sr rm s) := by
  refine x86Do_faultsKeeping fun x => ?_
  cases sregOf sr with
  | none => exact stopsKeeping_raises (noAbort_x86 _)
  | some g =>
    refine stopsKeeping_ite (stopsKeeping_raises (noAbort_x86 _)) ?_
    cases h : x.readRM 16 rm with
    | error e => exact (x.stopsKeeping_readRM 16 rm).rethrown h
    | ok v => exact x.stopsKeeping_loadSeg g v

/-- The fault of a prefixed instruction drops the prefixes, so that its state is also the one before them. -/
theorem x86Run_faultsKeeping {i : Instr} (ih : i.part = .p1 → ∀ s, FaultsKeeping s (exec i s)) (s : State)
    (p : X86Pfx) : FaultsKeeping s (x86Run i (s.withPfx p)) := by
  rw [x86Run_eq]
  split
  · exact ih ‹_› (s.withPfx p)
  · exact faultsKeeping_refused

/-- P1: an instruction, behind any bytes that modify it, keeps the state where it raises an exception. -/
theorem exec_faultsKeeping_p1 {i : Instr} (h : i.part = .p1) (s : State) : FaultsKeeping s (exec i s) := by
  induction i generalizing s <;> dsimp only [exec]
  case x86PushRm rm => exact execX86PushRm_faultsKeeping rm s
  case x86PushReg | x86PushImm8 | x86PushImm =>
    exact x86Do_faultsKeeping fun x =>
      x.stopsKeeping_guardPush (x.stopsKeeping_atOpSize fun _ => x.stopsKeeping_push _)
  case x86PushCs | x86PushSs | x86PushDs | x86PushEs | x86PushFs | x86PushGs =>
    exact x86Do_faultsKeeping fun x => stopsKeeping_pushSelector x _
  case x86AddAlImm8 | x86AdcAlImm8 | x86XorAlImm8 | x86MovR8Imm8 =>
    exact x86Do_faultsKeeping fun _ => stopsKeeping_ok
  case x86AddAxImm | x86AdcAxImm | x86XorAxImm | x86MovRImm =>
    exact x86DoSized_faultsKeeping fun _ _ => stopsKeeping_ok
  case x86AddRm8Imm8 | x86AddRm8R8 | x86AdcRm8Imm8 | x86AdcRm8R8 | x86XorRm8Imm8 | x86XorRm8R8 =>
    exact x86Do_faultsKeeping fun x => stopsKeeping_aluToRM x _ _ _
  case x86AddRmImm | x86AddRmImm8 | x86AddRmR | x86AdcRmImm | x86AdcRmImm8 | x86AdcRmR | x86XorRmImm | x86XorRmImm8 |
      x86XorRmR =>
    exact x86DoSized_faultsKeeping fun x _ => stopsKeeping_aluToRM x _ _ _
  case x86AddR8Rm8 | x86AdcR8Rm8 | x86XorR8Rm8 => exact x86Do_faultsKeeping fun x => stopsKeeping_aluToReg x _ _ _
  case x86AddRRm | x86AdcRRm | x86XorRRm => exact x86DoSized_faultsKeeping fun x _ => stopsKeeping_aluToReg x _ _ _
  case x86MovRm8R8 | x86MovRm8Imm8 => exact x86Do_faultsKeeping fun x => x.stopsKeeping_writeRM _ _
  case x86MovRmR | x86MovRmImm => exact x86DoSized_faultsKeeping fun x _ => x.stopsKeeping_writeRM _ _
  case x86MovR8Rm8 => exact x86Do_faultsKeeping fun x => stopsKeeping_movToReg x _ _
  case x86MovRRm => exact x86DoSized_faultsKeeping fun x _ => stopsKeeping_movToReg x _ _
  case x86MovRmSreg rm sr => exact execX86MovRmSreg_faultsKeeping rm sr s
  case x86MovSregRm sr rm => exact execX86MovSregRm_faultsKeeping sr rm s
  case x86MovAlMoffs => exact x86Do_faultsKeeping fun x => stopsKeeping_movFromMoffs x _
  case x86MovAxMoffs => exact x86DoSized_faultsKeeping fun x _ => stopsKeeping_movFromMoffs x _
  case x86MovMoffsAl => exact x86Do_faultsKeeping fun x => x.stopsKeeping_writeSeg _ _ _ _
  case x86MovMoffsAx => exact x86DoSized_faultsKeeping fun x _ => x.stopsKeeping_writeSeg _ _ _ _
  case x86Loop | x86Loope | x86Loopne => exact x86Do_faultsKeeping fun x => stopsKeeping_loopBody x _ _
  case x86ShrdImm | x86ShrdCl => exact x86DoSized_faultsKeeping fun x _ => stopsKeeping_shrdBody x _ _ _
  case x86XchgAxR | x86XchgRmR => exact x86DoSized_faultsKeeping fun x _ => stopsKeeping_xchgBody x _ _
  case x86XchgRm8R8 => exact x86Do_faultsKeeping fun x => stopsKeeping_xchgBody x _ _
  case x86PopMem => exact x86DoSized_faultsKeeping fun x _ => stopsKeeping_popToMem x _
  case x86PopReg r => exact execX86PopReg_faultsKeeping r s
  case x86PopDs | x86PopEs | x86PopFs | x86PopGs => exact x86Do_faultsKeeping fun x => stopsKeeping_popSelector x _
  case x86PopSs => exact execX86PopSs_faultsKeeping s
  case x86Ret | x86RetImm => exact x86Do_faultsKeeping fun x => stopsKeeping_retBody x _
  case x86OpSize i ih | x86AddrSize i ih | x86SegCs i ih | x86SegSs i ih | x86SegDs i ih | x86SegEs i ih |
      x86SegFs i ih | x86SegGs i ih =>
    exact faultsKeeping_ite faultsKeeping_refused (x86Run_faultsKeeping ih s _)
  case x86RetFar | x86RetFarImm | x86Lock => exact faultsKeeping_refused
  all_goals cases h

end Sys2Proof.Machine
end

section
/-! PROOFS, exceptions, continued: P2 to P6, and the obligation. LDR's Data Abort is P2's (spec/41_arm.md R350, R352). -/

namespace Sys2Proof.Machine

/-! ### P2: data processing and branches -/

theorem armDo_faultsKeeping {c : ArmCond} {body : ArmState → Body ArmState} {s : State}
    (h : StopsKeeping (body s.arm)) : FaultsKeeping s (armDo c body s) :=
  faultsKeeping_ite (faultsKeeping_finish h) faultsKeeping_next

theorem ArmState.stopsKeeping_branchTo (a : ArmState) (v : Word) : StopsKeeping (a.branchTo v) :=
  stopsKeeping_ite stopsKeeping_ok stopsKeeping_refuses

/-- Data processing raises no exception: to R15 it may be refused. -/
theorem stopsKeeping_armResult (s : Bool) (rd : BitVec 4) (r : Word) (set : ArmState → ArmState) (a : ArmState) :
    StopsKeeping (armResult s rd r set a) :=
  stopsKeeping_ite
    (stopsKeeping_ite (stopsKeeping_ite ((armReturn a).stopsKeeping_branchTo r) stopsKeeping_refuses)
      (a.stopsKeeping_branchTo r))
    stopsKeeping_ok

section
variable (s : Bool) (rn rd : BitVec 4) (o : Word × Bool) (a : ArmState)

theorem stopsKeeping_armMov : StopsKeeping (armMov s rd o a) := stopsKeeping_armResult s rd o.1 _ a

theorem stopsKeeping_armOrr : StopsKeeping (armOrr s rn rd o a) := by
  unfold armOrr
  exact stopsKeeping_armResult s rd _ _ a

theorem stopsKeeping_armAdd : StopsKeeping (armAdd s rn rd o a) := by
  unfold armAdd
  exact stopsKeeping_armResult s rd _ _ a

theorem stopsKeeping_armAdc : StopsKeeping (armAdc s rn rd o a) := by
  unfold armAdc
  exact stopsKeeping_armResult s rd _ _ a

theorem stopsKeeping_armSub : StopsKeeping (armSub s rn rd o a) := by
  unfold armSub
  exact stopsKeeping_armResult s rd _ _ a

end

theorem stopsKeeping_armBranch (link : Bool) (off : BitVec 24) (a : ArmState) : StopsKeeping (armBranch link off a) :=
  stopsKeeping_ite stopsKeeping_refuses stopsKeeping_ok

theorem stopsKeeping_armBx (rm : BitVec 4) (a : ArmState) : StopsKeeping (armBx rm a) :=
  stopsKeeping_ite (stopsKeeping_raises fun _ e => nomatch e) (stopsKeeping_ite stopsKeeping_refuses stopsKeeping_ok)

/-! ### P2: LDR -/

section
variable (a : ArmState) (mode : ArmIndex) (rn : BitVec 4) (indexed : Word)

/-- What a Data Abort leaves of the base register: the updated base only where the mode writes it back. -/
theorem ArmState.aborted_base : (a.aborted mode rn indexed).reg rn = a.reg rn ∨
    mode ≠ .offset ∧ (a.aborted mode rn indexed).reg rn = indexed := by
  by_cases hm : mode = .offset
  · rw [hm, ArmState.aborted_offset]
    exact .inl rfl
  · exact (a.aborted_cases mode rn indexed).1.imp_right fun h => ⟨hm, h⟩

theorem ArmState.aborted_mem : (a.aborted mode rn indexed).mem = a.mem := by
  unfold ArmState.aborted
  split_ifs <;> rfl

theorem ArmState.aborted_params : (a.aborted mode rn indexed).params = a.params := by
  unfold ArmState.aborted
  split_ifs <;> rfl

end

/-- An LDR keeps the state where it stops, but for its Data Abort. -/
theorem armLdr_stops (mode : ArmIndex) (up : Bool) (rn rd : BitVec 4) (off : Word) (a : ArmState) {indexed addr : Word}
    (hindexed : indexed = if up then a.readReg rn + off else a.readReg rn - off)
    (haddr : addr = if mode = .post then a.readReg rn else indexed) :
    StopsKeeping (armLdr mode up rn rd off a) ∨
      armLdr mode up rn rd off a = .error (.raisesLeaving (.armDataAbort addr) (a.aborted mode rn indexed)) := by
  rw [armLdr_eq mode up rn rd off a hindexed haddr]
  clear hindexed haddr
  split_ifs
  · exact .inl stopsKeeping_refuses
  · exact .inl stopsKeeping_refuses
  · exact .inl (stopsKeeping_raises fun _ e => nomatch e)
  · exact .inr rfl
  · exact .inl (ArmState.stopsKeeping_branchTo _ _)
  · exact .inl stopsKeeping_ok

/-- `i` is an LDR in state `a`, with base register `rn` and offset `off`. -/
def ArmState.IsLdr (a : ArmState) (i : Instr) (c : ArmCond) (mode : ArmIndex) (up : Bool) (rn rd : BitVec 4)
    (off : Word) : Prop :=
  (∃ o12 : BitVec 12, i = .armLdrImm c mode up rn rd o12 ∧ off = o12.setWidth 32) ∨
    ∃ sh rm, i = .armLdrReg c mode up rn rd sh rm ∧ off = a.readReg rm <<< sh.toNat

/-- `i` is an LDR that takes a Data Abort in state `s`: at the address it accesses, leaving what R352 allows. -/
def Aborts (i : Instr) (s : State) : Prop :=
  ∃ c mode up rn rd off, s.arm.IsLdr i c mode up rn rd off ∧
    let base := s.arm.readReg rn
    let indexed := if up then base + off else base - off
    exec i s = takeException (.armDataAbort (if mode = .post then base else indexed))
      { s with arm := s.arm.aborted mode rn indexed }

theorem ArmState.IsLdr.exec_eq {i : Instr} {s : State} {c : ArmCond} {mode : ArmIndex} {up : Bool} {rn rd : BitVec 4}
    {off : Word} (h : s.arm.IsLdr i c mode up rn rd off) : exec i s = armDo c (armLdr mode up rn rd off) s := by
  obtain ⟨o12, rfl, rfl⟩ | ⟨sh, rm, rfl, rfl⟩ := h <;> rfl

theorem ArmState.IsLdr.faultsKeeping_or_aborts {i : Instr} {s : State} {c : ArmCond} {mode : ArmIndex} {up : Bool}
    {rn rd : BitVec 4} {off : Word} (h : s.arm.IsLdr i c mode up rn rd off) :
    FaultsKeeping s (exec i s) ∨ Aborts i s := by
  have hexec := h.exec_eq
  cases hc : s.arm.passes c with
  | false =>
    rw [hexec, armDo_of_fails hc]
    exact .inl faultsKeeping_next
  | true =>
    rw [armDo_of_passes hc] at hexec
    obtain keeps | aborts := armLdr_stops mode up rn rd off s.arm rfl rfl
    · rw [hexec]
      exact .inl (faultsKeeping_finish keeps)
    · rw [aborts] at hexec
      exact .inr ⟨c, mode, up, rn, rd, off, h, hexec⟩

/-- P2: an instruction keeps the state where it raises an exception, or is an LDR that takes a Data Abort. -/
theorem exec_faultsKeeping_p2 {i : Instr} (h : i.part = .p2) (s : State) :
    FaultsKeeping s (exec i s) ∨ Aborts i s := by
  cases i <;> dsimp only [exec]
  case armSubImm | armSubLsl | armSubLsr => exact .inl (armDo_faultsKeeping (stopsKeeping_armSub _ _ _ _ _))
  case armAddImm | armAddLsl | armAddLsr => exact .inl (armDo_faultsKeeping (stopsKeeping_armAdd _ _ _ _ _))
  case armAdcImm | armAdcLsl | armAdcLsr => exact .inl (armDo_faultsKeeping (stopsKeeping_armAdc _ _ _ _ _))
  case armOrrImm | armOrrLsl | armOrrLsr => exact .inl (armDo_faultsKeeping (stopsKeeping_armOrr _ _ _ _ _))
  case armMovImm | armMovLsl | armMovLsr => exact .inl (armDo_faultsKeeping (stopsKeeping_armMov _ _ _ _))
  case armB | armBl => exact .inl (armDo_faultsKeeping (stopsKeeping_armBranch _ _ _))
  case armBx => exact .inl (armDo_faultsKeeping (stopsKeeping_armBx _ _))
  case armLdrImm c mode up rn rd o12 => exact ArmState.IsLdr.faultsKeeping_or_aborts (.inl ⟨o12, rfl, rfl⟩)
  case armLdrReg c mode up rn rd sh rm => exact ArmState.IsLdr.faultsKeeping_or_aborts (.inr ⟨sh, rm, rfl, rfl⟩)
  all_goals cases h

/-! ### P3 -/

theorem ppcDo_faultsKeeping {body : PpcState → Body PpcState} {s : State} (h : StopsKeeping (body s.ppc)) :
    FaultsKeeping s (ppcDo body s) :=
  faultsKeeping_finish h

theorem stopsKeeping_ppcMtsprBody (n : BitVec 10) (rS : BitVec 5) (p : PpcState) :
    StopsKeeping (ppcMtsprBody n rS p) := by
  refine stopsKeeping_ite stopsKeeping_ok (stopsKeeping_ite stopsKeeping_ok (stopsKeeping_ite stopsKeeping_ok
    (stopsKeeping_ite ?_ stopsKeeping_refuses)))
  cases PpcParams.mtsprOther p.params n with
  | illegalInstruction | supervisorInstruction => exact stopsKeeping_raises fun _ e => nomatch e
  | boundedlyUndefined => exact stopsKeeping_refuses

/-- P3: an instruction keeps the state where it raises an exception. -/
theorem exec_faultsKeeping_p3 {i : Instr} (h : i.part = .p3) (s : State) : FaultsKeeping s (exec i s) := by
  cases i <;> dsimp only [exec]
  case ppcAddi | ppcLi | ppcBc | ppcBclr | ppcBlr | ppcRlwimi | ppcRlwinm | ppcAddc | ppcAddze =>
    exact ppcDo_faultsKeeping stopsKeeping_ok
  case ppcMtspr | ppcMtxer | ppcMtlr | ppcMtctr => exact ppcDo_faultsKeeping (stopsKeeping_ppcMtsprBody _ _ _)
  case ppcLwzu =>
    exact ppcDo_faultsKeeping (stopsKeeping_ite stopsKeeping_refuses
      (stopsKeeping_ite (stopsKeeping_raises fun _ e => nomatch e) stopsKeeping_ok))
  all_goals cases h

/-! ### P4 -/

theorem sparcDo_faultsKeeping {body : SparcState → Body SparcState} {s : State} (h : StopsKeeping (body s.sparc)) :
    FaultsKeeping s (sparcDo body s) :=
  faultsKeeping_finish h

theorem sparcTransferDo_faultsKeeping {body : SparcState → Body SparcState} {s : State}
    (h : StopsKeeping (body s.sparc)) : FaultsKeeping s (sparcTransferDo body s) :=
  faultsKeeping_ite faultsKeeping_refused (faultsKeeping_finish h)

theorem stopsKeeping_sparcJmplBody (rs1 : BitVec 5) (o : SparcOp2) (rd : BitVec 5) (p : SparcState) :
    StopsKeeping (sparcJmplBody rs1 o rd p) :=
  stopsKeeping_ite (stopsKeeping_raises fun _ e => nomatch e) stopsKeeping_ok

/-- P4: an instruction keeps the state where it raises an exception. -/
theorem exec_faultsKeeping_p4 {i : Instr} (h : i.part = .p4) (s : State) : FaultsKeeping s (exec i s) := by
  cases i <;> dsimp only [exec]
  case sparcNop | sparcSethi | sparcAdd | sparcOr | sparcAddx | sparcAddcc | sparcSubcc | sparcSll | sparcSrl |
      sparcCmp | sparcMov =>
    exact sparcDo_faultsKeeping stopsKeeping_ok
  case sparcLd =>
    exact sparcDo_faultsKeeping (stopsKeeping_ite (stopsKeeping_raises fun _ e => nomatch e)
      (stopsKeeping_ite (stopsKeeping_raises fun _ e => nomatch e) stopsKeeping_ok))
  case sparcBicc => exact sparcTransferDo_faultsKeeping stopsKeeping_ok
  case sparcJmpl | sparcJmp | sparcCall | sparcRet | sparcRetl =>
    exact sparcTransferDo_faultsKeeping (stopsKeeping_sparcJmplBody _ _ _ _)
  all_goals cases h

/-! ### P5 -/

theorem mipsDo_faultsKeeping {body : MipsState → Body MipsState} {s : State} (h : StopsKeeping (body s.mips)) :
    FaultsKeeping s (mipsDo body s) :=
  faultsKeeping_finish h

theorem noAbort_mipsReserved : Exception.NoAbort .mipsReserved := fun _ h => nomatch h

theorem mipsTransferDo_faultsKeeping {d : MipsState → MipsPending} {s : State} :
    FaultsKeeping s (mipsTransferDo (fun p => .ok (d p)) s) :=
  faultsKeeping_ite (faultsKeeping_ite (faultsKeeping_takeException noAbort_mipsReserved) faultsKeeping_refused)
    (faultsKeeping_finish stopsKeeping_ok)

theorem stopsKeeping_mipsTranslate (l : List MipsXlate) (v : Word) : StopsKeeping (mipsTranslate l v) := by
  unfold mipsTranslate
  cases l.find? fun e => Region.has e.region v.toNat with
  | none => exact stopsKeeping_ok
  | some e =>
    dsimp only
    cases e.result with
    | mapsTo pbase => exact stopsKeeping_ok
    | faults f => cases f <;> exact stopsKeeping_raises fun _ e => nomatch e

theorem MipsState.stopsKeeping_loadWord (p : MipsState) (v : Word) : StopsKeeping (p.loadWord v) := by
  refine stopsKeeping_ite (stopsKeeping_raises fun _ e => nomatch e) ?_
  cases h : mipsTranslate p.params.xlate v with
  | error e => exact (stopsKeeping_mipsTranslate _ v).rethrown h
  | ok a => exact stopsKeeping_ok

theorem execMipsLw_faultsKeeping (rt : BitVec 5) (off : BitVec 16) (base : BitVec 5) (s : State) :
    FaultsKeeping s (execMipsLw rt off base s) := by
  refine mipsDo_faultsKeeping ?_
  cases h : s.mips.loadWord (off.signExtend 32 + s.mips.reg base) with
  | error e => exact (s.mips.stopsKeeping_loadWord _).rethrown h
  | ok v => exact stopsKeeping_ok

/-- P5: an instruction keeps the state where it raises an exception. -/
theorem exec_faultsKeeping_p5 {i : Instr} (h : i.part = .p5) (s : State) : FaultsKeeping s (exec i s) := by
  cases i <;> dsimp only [exec]
  case mipsAddiu | mipsOri | mipsAddu | mipsSltu | mipsMove | mipsLiAddiu | mipsLiOri =>
    exact mipsDo_faultsKeeping stopsKeeping_ok
  case mipsLw rt off base => exact execMipsLw_faultsKeeping rt off base s
  case mipsExt | mipsIns =>
    exact mipsDo_faultsKeeping (stopsKeeping_ite (stopsKeeping_raises noAbort_mipsReserved)
      (stopsKeeping_ite stopsKeeping_refuses stopsKeeping_ok))
  case mipsBne => exact mipsTransferDo_faultsKeeping
  case mipsJrPre =>
    exact faultsKeeping_ite (faultsKeeping_takeException noAbort_mipsReserved) mipsTransferDo_faultsKeeping
  case mipsJrR6 => exact faultsKeeping_ite mipsTransferDo_faultsKeeping faultsKeeping_refused
  all_goals cases h

/-! ### P6 -/

theorem rvDo_faultsKeeping {present : RvParams → Bool} {len : DWord} {body : RvState → Body RvState} {s : State}
    (h : StopsKeeping (body s.rv)) : FaultsKeeping s (rvDo present len body s) :=
  faultsKeeping_ite (faultsKeeping_finish h) faultsKeeping_refused

theorem rvJumpDo_faultsKeeping {present : RvParams → Bool} {body : RvState → Body RvState} {s : State}
    (h : StopsKeeping (body s.rv)) : FaultsKeeping s (rvJumpDo present body s) :=
  faultsKeeping_ite (faultsKeeping_finish h) faultsKeeping_refused

theorem noAbort_rvAccessFault (kind : RvAccess) (a : Nat) : Exception.NoAbort (.rvAccessFault kind a) :=
  fun _ h => nomatch h

section
variable (p : RvState)

theorem RvState.stopsKeeping_jump (v : DWord) : StopsKeeping (p.jump v) :=
  stopsKeeping_ite stopsKeeping_ok stopsKeeping_refuses

theorem RvState.stopsKeeping_load (w a : Nat) : StopsKeeping (p.load w a) :=
  stopsKeeping_ite (stopsKeeping_raises (noAbort_rvAccessFault _ _)) stopsKeeping_ok

theorem RvState.stopsKeeping_store (a : Nat) (v : BitVec w) : StopsKeeping (p.store a v) :=
  stopsKeeping_ite stopsKeeping_refuses
    (stopsKeeping_ite (stopsKeeping_raises (noAbort_rvAccessFault _ _)) stopsKeeping_ok)

theorem stopsKeeping_rvLoad (w : Nat) (ext : (n : Nat) → BitVec w → BitVec n) (rd : BitVec 5) (off : BitVec 12)
    (rs1 : BitVec 5) : StopsKeeping (rvLoad w ext rd off rs1 p) := by
  unfold rvLoad
  cases h : p.load w (p.ea rs1 off) with
  | error e => exact (p.stopsKeeping_load w _).rethrown h
  | ok v => exact stopsKeeping_ok

theorem stopsKeeping_rvShift {legal : RvState → Bool} {body : RvState → Body RvState} (h : StopsKeeping (body p)) :
    StopsKeeping (rvShift legal body p) :=
  stopsKeeping_ite h (stopsKeeping_raises fun _ e => nomatch e)

theorem stopsKeeping_rvBneBody (rs1 rs2 : BitVec 5) (off : BitVec 12) : StopsKeeping (rvBneBody rs1 rs2 off p) :=
  stopsKeeping_ite (p.stopsKeeping_jump _) stopsKeeping_ok

theorem stopsKeeping_rvAligned (a n : Nat) {b : Body RvState} (h : StopsKeeping b) : StopsKeeping (rvAligned a n b) :=
  stopsKeeping_ite h stopsKeeping_refuses

theorem stopsKeeping_rvLoadReserved (w : Nat) (rd rs1 : BitVec 5) : StopsKeeping (rvLoadReserved w rd rs1 p) := by
  refine stopsKeeping_rvAligned _ _ ?_
  cases h : p.load w (p.addr rs1) with
  | error e => exact (p.stopsKeeping_load w _).rethrown h
  | ok v => exact stopsKeeping_ok

/-- What sc.d draws before its access fault goes with it. -/
theorem stopsKeeping_rvScDBody (rd rs2 rs1 : BitVec 5) : StopsKeeping (rvScDBody rd rs2 rs1 p) :=
  stopsKeeping_rvAligned _ _ (stopsKeeping_ite stopsKeeping_refuses
    (stopsKeeping_ite (stopsKeeping_ite (stopsKeeping_raises (noAbort_rvAccessFault _ _)) stopsKeeping_ok)
      stopsKeeping_ok))

theorem stopsKeeping_rvAmoaddDBody (rd rs2 rs1 : BitVec 5) : StopsKeeping (rvAmoaddDBody rd rs2 rs1 p) := by
  refine stopsKeeping_rvAligned _ _ ?_
  cases h : p.load 64 (p.addr rs1) with
  | error e => exact (p.stopsKeeping_load 64 _).rethrown h
  | ok t =>
    dsimp only
    cases h : p.store (p.addr rs1) (t + p.reg 64 rs2) with
    | error e => exact (p.stopsKeeping_store _ _).rethrown h
    | ok q => exact stopsKeeping_ok

theorem stopsKeeping_rvReturnMachine : StopsKeeping (rvReturnMachine p) := by
  refine stopsKeeping_ite stopsKeeping_refuses ?_
  cases p.modeOf p.mpp with
  | none => exact stopsKeeping_refuses
  | some m =>
    dsimp only
    cases h : p.jump p.mepc with
    | error e => exact (p.stopsKeeping_jump _).rethrown h
    | ok q => exact stopsKeeping_ok

theorem stopsKeeping_rvReturnSupervisor : StopsKeeping (rvReturnSupervisor p) := by
  refine stopsKeeping_ite stopsKeeping_refuses ?_
  cases h : p.jump p.sepc with
  | error e => exact (p.stopsKeeping_jump _).rethrown h
  | ok q => exact stopsKeeping_ok

end

/-- P6: an instruction keeps the state where it raises an exception. -/
theorem exec_faultsKeeping_p6 {i : Instr} (h : i.part = .p6) (s : State) : FaultsKeeping s (exec i s) := by
  cases i <;> dsimp only [exec]
  case rvLh | rvLw | rvLd | rvLhu | rvLwu => exact rvDo_faultsKeeping (stopsKeeping_rvLoad _ _ _ _ _ _)
  case rvSb | rvSh | rvSw => exact rvDo_faultsKeeping (s.rv.stopsKeeping_store _ _)
  case rvSlli | rvSrli | rvSlliw | rvSrliw => exact rvDo_faultsKeeping (stopsKeeping_rvShift _ stopsKeeping_ok)
  case rvRemw | rvRemuw => exact rvDo_faultsKeeping (stopsKeeping_ite stopsKeeping_refuses stopsKeeping_ok)
  case rvAddi | rvSlti | rvSltiu | rvOri | rvAddiw | rvAdd | rvSll | rvSlt | rvSltu | rvSrl | rvOr | rvLui | rvAddw |
      rvSllw | rvSraw | rvNeg | rvNegw | rvNot | rvNop | rvLi | rvCAdd | rvCAddi | rvCAddi16sp | rvCAddi4spn |
      rvRdcycle =>
    exact rvDo_faultsKeeping stopsKeeping_ok
  case rvLrW | rvLrD => exact rvDo_faultsKeeping (stopsKeeping_rvLoadReserved _ _ _ _)
  case rvScD => exact rvDo_faultsKeeping (stopsKeeping_rvScDBody _ _ _ _)
  case rvAmoaddD => exact rvDo_faultsKeeping (stopsKeeping_rvAmoaddDBody _ _ _ _)
  case rvBne | rvBnez => exact rvJumpDo_faultsKeeping (stopsKeeping_rvBneBody _ _ _ _)
  case rvMret => exact rvJumpDo_faultsKeeping (stopsKeeping_rvReturnMachine _)
  case rvSret => exact rvJumpDo_faultsKeeping (stopsKeeping_rvReturnSupervisor _)
  case rvRet => exact rvJumpDo_faultsKeeping (s.rv.stopsKeeping_jump _)
  all_goals cases h

/-! ### Every part -/

/-- An instruction keeps the state where it raises an exception, or is an LDR that takes a Data Abort. -/
theorem exec_faultsKeeping (i : Instr) (s : State) : FaultsKeeping s (exec i s) ∨ Aborts i s := by
  cases h : i.part with
  | p1 => exact .inl (exec_faultsKeeping_p1 h s)
  | p2 => exact exec_faultsKeeping_p2 h s
  | p3 => exact .inl (exec_faultsKeeping_p3 h s)
  | p4 => exact .inl (exec_faultsKeeping_p4 h s)
  | p5 => exact .inl (exec_faultsKeeping_p5 h s)
  | p6 => exact .inl (exec_faultsKeeping_p6 h s)

/-- Settles O9: every body but LDR's stops without a state of its own, and LDR's Data Abort leaves what R352 allows. -/
theorem exceptionWritesNothing : Obligations.ExceptionWritesNothing := by
  unfold Obligations.ExceptionWritesNothing
  intro i s f hf
  obtain keeps | ⟨c, mode, up, rn, rd, off, hldr, aborts⟩ := exec_faultsKeeping i s
  · obtain ⟨e, noAbort, rfl⟩ := keeps f hf
    exact ⟨e, _, rfl, fun _ => rfl, fun a he => absurd he (noAbort a)⟩
  · have fault := aborts.symm.trans hf
    cases fault
    refine ⟨_, _, rfl, fun noAbort => absurd rfl (noAbort _), fun a he => ?_⟩
    cases he
    obtain ⟨-, regs, cpsr, spsr, -⟩ := s.arm.aborted_cases mode rn _
    exact ⟨c, mode, up, rn, rd, off, _, hldr, rfl, rfl, ArmState.aborted_base _ _ _ _, regs, cpsr, spsr,
      ArmState.aborted_mem _ _ _ _, ArmState.aborted_params _ _ _ _⟩

end Sys2Proof.Machine
end
